-- ==== Sys2Proof/Word.lean ====
section
/-! DEFINITION. The widths of the WE 32206 Math Acceleration Unit's data: bus words, register patterns, triple words. -/

namespace Sys2Proof

/-- A 32-bit word on DATA31-DATA00, bit 0 least significant (spec/00_scope.md R9, spec/20_memory.md R75). -/
abbrev Word := BitVec 32

/-- The 80-bit double-extended pattern an operand register holds (spec/10_state.md R21). -/
abbrev Extended := BitVec 80

/-- A 96-bit triple word: the data register, or the container of a triple-word operand (spec/10_state.md R45). -/
abbrev Triple := BitVec 96

end Sys2Proof
end

