-- ==== Sys2Proof/Syntax.lean ====
section
/-! DEFINITION. Abstract syntax: operand specifiers and the 32 operations of spec/opcode_table.json. -/

namespace Sys2Proof

/-- The eight operand registers (spec/10_state.md R21). -/
inductive Reg where
  | f0 | f1 | f2 | f3 | f4 | f5 | f6 | f7
deriving DecidableEq, Repr, Inhabited

/-- How many words a memory-based operand has (spec/30_encoding.md R145, R146). -/
inductive MemSize where
  | one | two | three
deriving DecidableEq, Repr, Inhabited

/-- A destination precision (spec/40_data_formats.md R210). -/
inductive Prec where
  | single | double | extended
deriving DecidableEq, Repr, Inhabited

/-- The rounding modes RN, RP, RM, RZ (spec/10_state.md R38, spec/30_encoding.md R144). -/
inductive RoundMode where
  | nearest | towardPlus | towardMinus | towardZero
deriving DecidableEq, Repr, Inhabited

/-- A source operand specifier with its bank bit applied (spec/30_encoding.md R145). -/
inductive Src where
  | reg (r : Reg)
  | mem (n : MemSize)
  | none
deriving DecidableEq, Repr, Inhabited

/-- The destination specifier with its bank bit applied (spec/30_encoding.md R146). -/
inductive Dst where
  | reg (r : Reg) (p : Prec)
  | mem (n : MemSize)
  | none
deriving DecidableEq, Repr, Inhabited

/-- What every command word carries beside its opcode. `rc` is the round control of the command word
when RCS = 1 and `none` when RCS = 0 (spec/30_encoding.md R143, R144). -/
structure Operands where
  op1 : Src
  op2 : Src
  op3 : Dst
  rc  : Option RoundMode
deriving DecidableEq, Repr, Inhabited

/-- One constructor per row of spec/opcode_table.json, in the order of the opcodes (spec/30_encoding.md R150). -/
inductive Instr where
  | reserved00 (o : Operands)
  | reserved01 (o : Operands)
  | add (o : Operands)
  | sub (o : Operands)
  | div (o : Operands)
  | rem (o : Operands)
  | mul (o : Operands)
  | move (o : Operands)
  | rdasr (o : Operands)
  | wrasr (o : Operands)
  | cmp (o : Operands)
  | cmpe (o : Operands)
  | abs (o : Operands)
  | sqrt (o : Operands)
  | rtoi (o : Operands)
  | ftoi (o : Operands)
  | itof (o : Operands)
  | dtof (o : Operands)
  | ftod (o : Operands)
  | nop (o : Operands)
  | erof (o : Operands)
  | reserved15 (o : Operands)
  | reserved16 (o : Operands)
  | neg (o : Operands)
  | ldr (o : Operands)
  | reserved19 (o : Operands)
  | cmps (o : Operands)
  | cmpes (o : Operands)
  | sin (o : Operands)
  | cos (o : Operands)
  | atan (o : Operands)
  | pi (o : Operands)
deriving DecidableEq, Repr, Inhabited

/-- The operand specifiers of an instruction: every opcode has all of them (spec/30_encoding.md R155). -/
def Instr.operands : Instr → Operands
  | .reserved00 o => o
  | .reserved01 o => o
  | .add o => o
  | .sub o => o
  | .div o => o
  | .rem o => o
  | .mul o => o
  | .move o => o
  | .rdasr o => o
  | .wrasr o => o
  | .cmp o => o
  | .cmpe o => o
  | .abs o => o
  | .sqrt o => o
  | .rtoi o => o
  | .ftoi o => o
  | .itof o => o
  | .dtof o => o
  | .ftod o => o
  | .nop o => o
  | .erof o => o
  | .reserved15 o => o
  | .reserved16 o => o
  | .neg o => o
  | .ldr o => o
  | .reserved19 o => o
  | .cmps o => o
  | .cmpes o => o
  | .sin o => o
  | .cos o => o
  | .atan o => o
  | .pi o => o

end Sys2Proof
end

