-- ==== Sys2Proof/Config.lean ====
section
/-! DEFINITION. What the manual leaves open: free values and named parameters. None of these constants has a body,
so no proof can learn its value; a claim that holds of the model holds whatever they are (log 41).

A free value (`undefined_word` of spec/00_scope.md R11) is one of the functions below applied to the counter
`State.draws`, which every drawing step advances. Different functions at the same counter are unrelated draws. -/

namespace Sys2Proof.Config

/-- What the MAU may do with a non-word access while FE = 0 (spec/20_memory.md R126, D20; log 16). -/
inductive NonWordBehaviour where
  /-- A word access of all 32 data lines: the default of the spec. -/
  | wordAccess
  /-- Counted as a word access, the word undefined. -/
  | undefinedWord
  /-- Not counted: nothing is latched, driven or changed. -/
  | ignored
deriving DecidableEq, Repr, Inhabited

/-! ### Free values -/

/-- N when the spec says it is unspecified (spec/41_operation_model.md R263; log 23). -/
opaque freeN : Nat → Bool
/-- Z when the spec says it is unspecified (spec/41_operation_model.md R263; log 23). -/
opaque freeZ : Nat → Bool
/-- RA after an interrupt acknowledge in the quiescent state with RA = 0 (spec/60_exceptions.md R444; log 37). -/
opaque freeRa : Nat → Bool
/-- Bit 31 of the word RDASR stores (spec/44_data_transfer.md R333; log 27). -/
opaque freeRdasrRa : Nat → Bool
/-- DR where no rule defines it (spec/41_operation_model.md R265). -/
opaque freeDr : Nat → Triple
/-- Result words, or the trailing words beside a result, that are indeterminate (spec/20_memory.md R99,
spec/41_operation_model.md R225). -/
opaque freeImage : Nat → Triple
/-- A register written with indeterminate content (spec/41_operation_model.md R225). -/
opaque freeReg : Nat → Extended
/-- The value of a used Op1 whose specifier says "no operand" (spec/30_encoding.md R157; log 17). -/
opaque freeOp1 : Nat → Extended
/-- The value of a used Op2 whose specifier says "no operand" (spec/30_encoding.md R157; log 17). -/
opaque freeOp2 : Nat → Extended
/-- The raw words of an Op1 whose shape no page describes (D35; log 28). -/
opaque freeRawOp1 : Nat → Triple
/-- The rounding precision when the destination is "no operand" (spec/30_encoding.md R157; log 17). -/
opaque freePrec : Nat → Prec
/-- L, G, R, S where the spec leaves them undefined (spec/60_exceptions.md R416, R418). -/
opaque freeLgrs : Nat → BitVec 4
/-- DR bits 91-82 of a fault image (spec/60_exceptions.md R415). -/
opaque freeGap : Nat → BitVec 10
/-- DR bits 95-64 of the narrow inexact image of peripheral mode (spec/60_exceptions.md R420). -/
opaque freeNarrowHead : Nat → BitVec 32
/-- The implicit bit of an infinity in that image: an infinity has none that is stated (spec/60_exceptions.md R420;
log 35). -/
opaque freeImplicitBit : Nat → Bool
/-- The digits of a decimal infinity or NaN (spec/45_conversion.md R352, R356). -/
opaque freeDigits : Nat → BitVec 72
/-- The sign of the nontrapping NaN a digit above 9 makes (spec/40_data_formats.md R202; log 29). -/
opaque freeNanSign : Nat → Bool
/-- The fraction below the most significant bit of a NaN that came from a decimal NaN (spec/45_conversion.md R356). -/
opaque freeNanFraction : Nat → BitVec 62
/-- J of a double-extended NaN that came from a decimal NaN: not stated (spec/45_conversion.md R356; log 29). -/
opaque freeNanJ : Nat → Bool
/-- A word read where the manual promises an indeterminate one (spec/20_memory.md R90), or the ASR bits on which no
claim may rest (R97; log 33). -/
opaque freeBusWord : Nat → Word
/-- The word latched or driven by a non-word access with FE = 0, where `fe0NonwordBehaviour` leaves it undefined
(spec/20_memory.md R126; log 16). -/
opaque freeNonWord : Nat → Word
/-- For each ASR bit number, whether an operation cut short had already written that bit
(spec/60_exceptions.md R441; log 33). -/
opaque cutShortWrote : Nat → Word

/-! ### Named parameters (spec/00_scope.md R8) -/

/-- `ecp_clear_policy`: true for `each_operation`, false for `software_only` (spec/60_exceptions.md R409; log 34). -/
opaque ecpClearedByEachOperation : Bool
/-- `periph_access_during_coproc_terminates` (spec/20_memory.md R118; log 8). -/
opaque periphAccessDuringCoprocTerminates : Bool
/-- `fe0_nonword_behaviour` (spec/20_memory.md R126; log 16). -/
opaque fe0NonwordBehaviour : NonWordBehaviour
/-- `nan_narrow`: the 62 fraction bits below the most significant one of a nontrapping NaN brought to a precision
its fraction does not fit (spec/41_operation_model.md R236; log 21). -/
opaque nanNarrow : Prec → BitVec 63 → BitVec 62
/-- `dec_sign_out` for a positive number: which of the four positive codes (spec/45_conversion.md R355; log 29). -/
opaque decSignPositive : BitVec 2
/-- `dec_sign_out` for a negative number: which of the two negative codes (spec/45_conversion.md R355; log 29). -/
opaque decSignNegative : Bool
/-- `rem_step` on (Op1, Op2): `none` when one REM completes, `some n'` when it stops at Op2 - n'*Op1
(spec/42_arithmetic.md R289; log 26). -/
opaque remStep : Extended → Extended → Option Int
/-- `trig_result`: the internal result m * 2^e of the function number, argument, precision and mode
(spec/46_transcendental.md R371; log 32). -/
opaque trigResult : Nat → Extended → Prec → RoundMode → Int × Int
/-- The sign of that internal result where it is 0: not stated (spec/46_transcendental.md R371; log 32). -/
opaque trigZeroSign : Nat → Extended → Prec → RoundMode → Bool

end Sys2Proof.Config
end

