-- ==== Sys2Proof/WellFormed.lean ====
section
/-! DEFINITION. What software should write in a command word (spec/30_encoding.md R147, R157; D35). The machine runs
the other command words too: a well-formedness check never refuses one. -/

namespace Sys2Proof

/-- Does the operation use Op1? (spec/30_encoding.md R150, column "operands used".) -/
def Instr.usesOp1 : Instr → Bool
  | .add _ | .sub _ | .div _ | .rem _ | .mul _ | .move _ | .wrasr _ | .cmp _ | .cmpe _ | .abs _ | .sqrt _ | .rtoi _
  | .ftoi _ | .itof _ | .dtof _ | .ftod _ | .neg _ | .ldr _ | .cmps _ | .cmpes _ | .sin _ | .cos _ | .atan _ => true
  | .reserved00 _ | .reserved01 _ | .rdasr _ | .nop _ | .erof _ | .reserved15 _ | .reserved16 _ | .reserved19 _
  | .pi _ => false

/-- Does the operation use Op2? -/
def Instr.usesOp2 : Instr → Bool
  | .add _ | .sub _ | .div _ | .rem _ | .mul _ | .cmp _ | .cmpe _ | .cmps _ | .cmpes _ => true
  | .reserved00 _ | .reserved01 _ | .move _ | .rdasr _ | .wrasr _ | .abs _ | .sqrt _ | .rtoi _ | .ftoi _ | .itof _
  | .dtof _ | .ftod _ | .nop _ | .erof _ | .reserved15 _ | .reserved16 _ | .neg _ | .ldr _ | .reserved19 _ | .sin _
  | .cos _ | .atan _ | .pi _ => false

/-- Does the operation use Op3? -/
def Instr.usesOp3 : Instr → Bool
  | .add _ | .sub _ | .div _ | .rem _ | .mul _ | .move _ | .rdasr _ | .abs _ | .sqrt _ | .rtoi _ | .ftoi _ | .itof _
  | .dtof _ | .ftod _ | .erof _ | .neg _ | .sin _ | .cos _ | .atan _ | .pi _ => true
  | .reserved00 _ | .reserved01 _ | .wrasr _ | .cmp _ | .cmpe _ | .nop _ | .reserved15 _ | .reserved16 _ | .ldr _
  | .reserved19 _ | .cmps _ | .cmpes _ => false

/-- A used Op1 is an operand, an unused one has the NOP value (spec/30_encoding.md R147, R157). -/
def Instr.op1Ok (i : Instr) : Bool := (i.operands.op1 != .none) == i.usesOp1

/-- The same for Op2. -/
def Instr.op2Ok (i : Instr) : Bool := (i.operands.op2 != .none) == i.usesOp2

/-- The same for Op3. -/
def Instr.op3Ok (i : Instr) : Bool := (i.operands.op3 != .none) == i.usesOp3

/-- The operand shapes the instruction pages describe (D35): raw words come from and go to memory, a decimal operand
has three words. A register where a conversion wants memory is described (an invalid operation, R252, R253). -/
def Instr.shapeOk : Instr → Bool
  | .rdasr o => match o.op3 with | .reg _ _ => false | _ => true
  | .wrasr o => match o.op1 with | .reg _ => false | _ => true
  | .ldr o => match o.op1 with | .mem .three => true | _ => false
  | .erof o => match o.op3 with | .mem .three => true | _ => false
  | .dtof o => match o.op1 with | .mem .one | .mem .two => false | _ => true
  | .ftod o => match o.op3 with | .mem .one | .mem .two => false | _ => true
  | _ => true

/-- A command word as the manual asks software to write it. -/
def Instr.wellFormed (i : Instr) : Bool := i.op1Ok && i.op2Ok && i.op3Ok && i.shapeOk

end Sys2Proof
end

