-- ==== Sys2Proof/Decode.lean ====
section
/-! DEFINITION. Reading a command word (spec/30_encoding.md R166) and writing one (R140). The ID byte is not part of
the decoding: a broadcast compares it before the word is accepted (R141). Bits 23-21 are ignored (R161, D22; log 18). -/

namespace Sys2Proof

/-- Register number `4*RBk + n` (spec/10_state.md R23). -/
def Reg.ofNumber : Nat → Reg
  | 0 => .f0
  | 1 => .f1
  | 2 => .f2
  | 3 => .f3
  | 4 => .f4
  | 5 => .f5
  | 6 => .f6
  | _ => .f7

/-- The register's number, 0 to 7. -/
def Reg.number : Reg → Nat
  | .f0 => 0
  | .f1 => 1
  | .f2 => 2
  | .f3 => 3
  | .f4 => 4
  | .f5 => 5
  | .f6 => 6
  | .f7 => 7

/-- The two-bit round-control codes, left digit in the higher bit (spec/10_state.md R38, spec/30_encoding.md R144,
D4; log 4). The one place that fixes the orientation. -/
def RoundMode.ofCode (c : BitVec 2) : RoundMode :=
  match c.toNat with
  | 0 => .nearest
  | 1 => .towardPlus
  | 2 => .towardMinus
  | _ => .towardZero

/-- The code of a rounding mode. -/
def RoundMode.code : RoundMode → BitVec 2
  | .nearest => 0
  | .towardPlus => 1
  | .towardMinus => 2
  | .towardZero => 3

/-- A source specifier with its bank bit (spec/30_encoding.md R145). The bank bit of a memory or absent operand has no
effect (R142). -/
def decodeSrc (bank : Bool) (s : BitVec 3) : Src :=
  match s.toNat with
  | 4 => .mem .one
  | 5 => .mem .two
  | 6 => .mem .three
  | 7 => .none
  | n => .reg (Reg.ofNumber ((if bank then 4 else 0) + n))

/-- The destination specifier with its bank bit (spec/30_encoding.md R146). -/
def decodeDst (bank : Bool) (s : BitVec 4) : Dst :=
  let r := Reg.ofNumber ((if bank then 4 else 0) + (s.extractLsb' 0 2).toNat)
  match (s.extractLsb' 2 2).toNat with
  | 0 => .reg r .single
  | 1 => .reg r .double
  | 2 => .reg r .extended
  | _ =>
    match (s.extractLsb' 0 2).toNat with
    | 0 => .mem .one
    | 1 => .mem .two
    | 2 => .mem .three
    | _ => .none

/-- Every field of a command word but the opcode (spec/30_encoding.md R140). -/
def decodeOperands (w : Word) : Operands where
  op1 := decodeSrc (w.getLsbD 20) (w.extractLsb' 7 3)
  op2 := decodeSrc (w.getLsbD 19) (w.extractLsb' 4 3)
  op3 := decodeDst (w.getLsbD 18) (w.extractLsb' 0 4)
  rc  := if w.getLsbD 17 then some (RoundMode.ofCode (w.extractLsb' 15 2)) else none

/-- The operation of an opcode (spec/30_encoding.md R150). -/
def instrOfOpcode (opcode : Nat) (o : Operands) : Instr :=
  match opcode with
  | 0x00 => .reserved00 o
  | 0x01 => .reserved01 o
  | 0x02 => .add o
  | 0x03 => .sub o
  | 0x04 => .div o
  | 0x05 => .rem o
  | 0x06 => .mul o
  | 0x07 => .move o
  | 0x08 => .rdasr o
  | 0x09 => .wrasr o
  | 0x0A => .cmp o
  | 0x0B => .cmpe o
  | 0x0C => .abs o
  | 0x0D => .sqrt o
  | 0x0E => .rtoi o
  | 0x0F => .ftoi o
  | 0x10 => .itof o
  | 0x11 => .dtof o
  | 0x12 => .ftod o
  | 0x13 => .nop o
  | 0x14 => .erof o
  | 0x15 => .reserved15 o
  | 0x16 => .reserved16 o
  | 0x17 => .neg o
  | 0x18 => .ldr o
  | 0x19 => .reserved19 o
  | 0x1A => .cmps o
  | 0x1B => .cmpes o
  | 0x1C => .sin o
  | 0x1D => .cos o
  | 0x1E => .atan o
  | _ => .pi o

/-- The instruction of a command word: total, since no command word is rejected (spec/30_encoding.md R152, R160). -/
def decode (w : Word) : Instr := instrOfOpcode (w.extractLsb' 10 5).toNat (decodeOperands w)

/-- Why a sequence of words is no command word. -/
inductive DecodeError where
  /-- There is no word at all. -/
  | noCommandWord
  /-- A command is one word (spec/30_encoding.md R140); another word follows it. -/
  | wordAfterCommand
deriving DecidableEq, Repr

/-- A command is exactly one 32-bit word (spec/30_encoding.md R140, R162). -/
def decodeWords : List Word → Except DecodeError Instr
  | [] => .error .noCommandWord
  | [w] => .ok (decode w)
  | _ :: _ :: _ => .error .wordAfterCommand

/-- The instruction the decoder reads from an opcode-table word of `nbits` bits. -/
def decodeTableWord (nbits w : Nat) : Option Instr :=
  if nbits ≤ 32 ∧ w < 2 ^ nbits then
    match decodeWords [BitVec.ofNat 32 w] with
    | .ok i => some i
    | .error _ => none
  else none

/-! ### Encoding -/

/-- The opcode of an instruction (spec/30_encoding.md R150). -/
def Instr.opcode : Instr → BitVec 5
  | .reserved00 _ => 0x00
  | .reserved01 _ => 0x01
  | .add _ => 0x02
  | .sub _ => 0x03
  | .div _ => 0x04
  | .rem _ => 0x05
  | .mul _ => 0x06
  | .move _ => 0x07
  | .rdasr _ => 0x08
  | .wrasr _ => 0x09
  | .cmp _ => 0x0A
  | .cmpe _ => 0x0B
  | .abs _ => 0x0C
  | .sqrt _ => 0x0D
  | .rtoi _ => 0x0E
  | .ftoi _ => 0x0F
  | .itof _ => 0x10
  | .dtof _ => 0x11
  | .ftod _ => 0x12
  | .nop _ => 0x13
  | .erof _ => 0x14
  | .reserved15 _ => 0x15
  | .reserved16 _ => 0x16
  | .neg _ => 0x17
  | .ldr _ => 0x18
  | .reserved19 _ => 0x19
  | .cmps _ => 0x1A
  | .cmpes _ => 0x1B
  | .sin _ => 0x1C
  | .cos _ => 0x1D
  | .atan _ => 0x1E
  | .pi _ => 0x1F

/-- The bank bit of a register (spec/10_state.md R23). -/
def Reg.bank (r : Reg) : Bool := 4 ≤ r.number

/-- The number of a register within its bank. -/
def Reg.inBank (r : Reg) : BitVec 2 := BitVec.ofNat 2 r.number

/-- The bank bit and the specifier of a source (spec/30_encoding.md R145). -/
def encodeSrc : Src → Bool × BitVec 3
  | .reg r => (r.bank, (0#1 ++ r.inBank : BitVec 3))
  | .mem .one => (false, 0b100)
  | .mem .two => (false, 0b101)
  | .mem .three => (false, 0b110)
  | .none => (false, 0b111)

/-- The precision code of a register destination (spec/30_encoding.md R146). -/
def Prec.code : Prec → BitVec 2
  | .single => 0b00
  | .double => 0b01
  | .extended => 0b10

/-- The bank bit and the specifier of a destination (spec/30_encoding.md R146). -/
def encodeDst : Dst → Bool × BitVec 4
  | .reg r p => (r.bank, (p.code ++ r.inBank : BitVec 4))
  | .mem .one => (false, 0b1100)
  | .mem .two => (false, 0b1101)
  | .mem .three => (false, 0b1110)
  | .none => (false, 0b1111)

/-- A command word from its fields, most significant first (spec/30_encoding.md R140): ID 0, bits 23-21 zero. -/
def packCommand (rb1 rb2 rb3 rcs : Bool) (rc : BitVec 2) (opcode : BitVec 5) (s1 s2 : BitVec 3) (s3 : BitVec 4) : Word :=
  0#8 ++ 0#3 ++ BitVec.ofBool rb1 ++ BitVec.ofBool rb2 ++ BitVec.ofBool rb3 ++ BitVec.ofBool rcs ++ rc ++ opcode
    ++ s1 ++ s2 ++ s3

/-- The command word of an instruction. -/
def encode (i : Instr) : Word :=
  let o := i.operands
  packCommand (encodeSrc o.op1).1 (encodeSrc o.op2).1 (encodeDst o.op3).1 o.rc.isSome
    ((o.rc.map RoundMode.code).getD 0) i.opcode (encodeSrc o.op1).2 (encodeSrc o.op2).2 (encodeDst o.op3).2

/-! ### What the bus protocol reads off a command word -/

/-- Words of a memory operand (spec/20_memory.md R77). -/
def MemSize.words : MemSize → Nat
  | .one => 1
  | .two => 2
  | .three => 3

/-- Words a source specifier makes the MAU await (spec/20_memory.md R77). -/
def Src.words : Src → Nat
  | .mem n => n.words
  | .reg _ => 0
  | .none => 0

/-- Words a destination specifier makes the MAU deliver (spec/20_memory.md R77). -/
def Dst.words : Dst → Nat
  | .mem n => n.words
  | .reg _ _ => 0
  | .none => 0

/-- `n_in`, whatever the opcode (spec/20_memory.md R77, spec/30_encoding.md R156). -/
def Operands.wordsIn (o : Operands) : Nat := o.op1.words + o.op2.words

/-- The operations that set no CSC and are not taken as a restart: RDASR, WRASR, LDR, EROF, NOP and the unassigned
opcodes (spec/10_state.md R35, spec/60_exceptions.md R433). -/
def Instr.exempt : Instr → Bool
  | .reserved00 _ | .reserved01 _ | .rdasr _ | .wrasr _ | .nop _ | .erof _ | .reserved15 _ | .reserved16 _ | .ldr _
  | .reserved19 _ => true
  | .add _ | .sub _ | .div _ | .rem _ | .mul _ | .move _ | .cmp _ | .cmpe _ | .abs _ | .sqrt _ | .rtoi _ | .ftoi _
  | .itof _ | .dtof _ | .ftod _ | .neg _ | .cmps _ | .cmpes _ | .sin _ | .cos _ | .atan _ | .pi _ => false

/-- The four compares, whose status word shows UO in bit 18 (spec/10_state.md R34). -/
def Instr.isCompare : Instr → Bool
  | .cmp _ | .cmpe _ | .cmps _ | .cmpes _ => true
  | .reserved00 _ | .reserved01 _ | .add _ | .sub _ | .div _ | .rem _ | .mul _ | .move _ | .rdasr _ | .wrasr _
  | .abs _ | .sqrt _ | .rtoi _ | .ftoi _ | .itof _ | .dtof _ | .ftod _ | .nop _ | .erof _ | .reserved15 _
  | .reserved16 _ | .neg _ | .ldr _ | .reserved19 _ | .sin _ | .cos _ | .atan _ | .pi _ => false

end Sys2Proof
end

