-- ==== Sys2Proof/Machine/State.lean ====
section
/-! DEFINITION. The state of the MAU as plain data (INVENTORY.md, State), the reasons a step can stop, and reset. -/

namespace Sys2Proof.Machine

/-- Why a step stops with a fault. The MAU's own FAULT# output and its five exceptions are not among these: they are
state changes and outputs (spec/60_exceptions.md R400), and the machine goes on. -/
inductive Fault where
  /-- Raised by `step` when an operation is to run although the words its specifiers name have not all arrived. The
  spec starts an operation only when they have (spec/20_memory.md R97, R109), and no state that meets `State.Inv`
  gets here. Safe (log 44). -/
  | operandWordsMissing
deriving DecidableEq, Repr

/-- Why a step has no meaning. -/
inductive Refusal where
  /-- An instruction that has no meaning yet; raised by an arm of `exec` only. Safe. -/
  | notModelled (mnemonic : String)
  /-- Raised by `step` on the event `highImpedance`: HIGHZ# 3-states the outputs for testing and nothing says what the
  MAU does meanwhile (spec/70_reset_and_hazards.md R475, U36). Safe (log 38). -/
  | highImpedanceTest
  /-- Raised by `step` on the event `shortReset`: RESET# asserted for fewer than two cycles
  (spec/70_reset_and_hazards.md R470, U36). Safe (log 38). -/
  | shortResetPulse
  /-- Raised by `step` on a data fetch or data write with the R/W# level that never occurs with the WE 32200; the
  figures that showed it are lost and a model refuses it (spec/20_memory.md R120). Safe (log 38). -/
  | unexpectedReadWriteLevel
deriving DecidableEq, Repr

/-- The stored fields of the auxiliary status register (spec/10_state.md R25). Bits 30-26 read as 0 (R41) and VER
reads as 001 (R27): neither is stored, `Asr.toWord` supplies them. -/
structure Asr where
  /-- bit 31, result available -/
  ra : Bool
  /-- bit 25, exception condition present -/
  ecp : Bool
  /-- bit 24, nontrapping NaN control -/
  ntnc : Bool
  /-- bits 23-22, round control -/
  rc : RoundMode
  /-- bit 21, negative -/
  n : Bool
  /-- bit 20, zero -/
  z : Bool
  /-- bit 19, integer overflow -/
  io : Bool
  /-- bit 18, inexact sticky -/
  ps : Bool
  /-- bit 17, context switch control -/
  csc : Bool
  /-- bit 16, unordered -/
  uo : Bool
  /-- bit 15, write fault indicator -/
  wf : Bool
  /-- bit 14, invalid operation mask -/
  im : Bool
  /-- bit 13, overflow mask -/
  om : Bool
  /-- bit 12, underflow mask -/
  um : Bool
  /-- bit 11, divide by zero mask -/
  qm : Bool
  /-- bit 10, inexact mask -/
  pm : Bool
  /-- bit 9, invalid operation sticky -/
  is : Bool
  /-- bit 8, overflow sticky -/
  os : Bool
  /-- bit 7, underflow sticky -/
  us : Bool
  /-- bit 6, divide by zero sticky -/
  qs : Bool
  /-- bit 5, partial remainder -/
  pr : Bool
  /-- bit 4, unaligned word -/
  uw : Bool
  /-- bit 0, feature enable -/
  fe : Bool
deriving DecidableEq, Repr

/-- The eight operand registers (spec/10_state.md R21). -/
structure RegFile where
  f0 : Extended
  f1 : Extended
  f2 : Extended
  f3 : Extended
  f4 : Extended
  f5 : Extended
  f6 : Extended
  f7 : Extended
deriving DecidableEq, Repr

/-- The protocol phases (spec/10_state.md R50). A count is of words still to come, or still to be written out. -/
inductive Phase where
  | quiescent
  | pAwaitOperands (k : Nat)
  | pExecuting
  | cAwaitOperands (k : Nat)
  | cExecuting
  | cDone
  | cAwaitWrites (k : Nat)
deriving DecidableEq, Repr

/-- `mode_lock`: how the current, or last, transaction was started (spec/10_state.md R52). -/
inductive Mode where
  | peripheral
  | coprocessor
deriving DecidableEq, Repr

/-- `pending_result` (spec/10_state.md R55): nothing, the register to be written at the status fetch
(spec/20_memory.md R111), or the left-justified image of the words to be written out (R112). -/
inductive Pending where
  | nothing
  | register (r : Reg) (v : Extended)
  | words (image : Triple)
deriving DecidableEq, Repr

/-- What the MAU drives in answer to the access of one step (spec/10_state.md R53, spec/20_memory.md R71): each is
true when the signal is asserted. `data` is the word on DATA31-DATA00, when the MAU drives one. -/
structure BusOut where
  srdy : Bool
  dtack : Bool
  fault : Bool
  data : Option Word
deriving DecidableEq, Repr

/-- The abstract bus events (spec/20_memory.md R74), in the order the environment performs them. `dsize` is the DSIZE
code (R73), `ok` says that DRDY# was asserted at the end of the access. A peripheral write has no size: of the two ways
R87 leaves a model, a sub-word write is no refused event but a `periphWrite` whose unused byte lanes are any bits of `w`
(DESIGN CHOICE, log 45). -/
inductive BusEvent where
  | reset
  | periphRead (obj : BitVec 3)
  | periphWrite (obj : BitVec 3) (w : Word)
  | broadcast (w : Word) (ok : Bool)
  | dataFetch (w : Word) (dsize : BitVec 3) (ok : Bool)
  | statusFetch
  | dataWrite (dsize : BitVec 3) (ok : Bool)
  | intAck
  | piAck
  /-- Time passes, so that an operation in progress completes (spec/70_reset_and_hazards.md R500; log 3). -/
  | elapse
  /-- HIGHZ# is asserted; refused (U36; log 38). -/
  | highImpedance
  /-- RESET# is asserted for fewer than two cycles; refused (U36; log 38). -/
  | shortReset
  /-- A data fetch or data write with the unexpected R/W# level; refused (spec/20_memory.md R120; log 38). -/
  | wrongDirection
deriving DecidableEq, Repr

/-- The MAU (INVENTORY.md lists every field with its rule), the events its bus will bring (`inbox`, log 2), the answer
to the last of them (`bus`), and the counter of free values (`draws`, log 41). -/
structure State where
  asr : Asr
  regs : RegFile
  cr : Word
  dr : Triple
  phase : Phase
  op1In : List Word
  op2In : List Word
  modeLock : Mode
  pireq : Bool
  done : Bool
  pendingException : Bool
  pending : Pending
  statusRetry : Option (Word × Bool)
  bus : BusOut
  inbox : List BusEvent
  draws : Nat
deriving DecidableEq, Repr

/-- Nothing is driven. -/
def BusOut.idle : BusOut := ⟨false, false, false, none⟩

/-- The stored ASR bits at power-up: the spec draws them (spec/70_reset_and_hazards.md R473); the model names 0
(DESIGN CHOICE, log 1). -/
def Asr.powerUp : Asr where
  ra := false
  ecp := false
  ntnc := false
  rc := .nearest
  n := false
  z := false
  io := false
  ps := false
  csc := false
  uo := false
  wf := false
  im := false
  om := false
  um := false
  qm := false
  pm := false
  is := false
  os := false
  us := false
  qs := false
  pr := false
  uw := false
  fe := false

/-- The machine after the first reset following power-up (spec/70_reset_and_hazards.md R473, column power-up). Phase,
latches, pending result, `DONE#`, `PIREQ#` and `mode_lock` are the spec's; the register contents, which the spec draws,
are 0 (DESIGN CHOICE, log 1). -/
def State.reset : State where
  asr := .powerUp
  regs := ⟨0, 0, 0, 0, 0, 0, 0, 0⟩
  cr := 0
  dr := 0
  phase := .quiescent
  op1In := []
  op2In := []
  modeLock := .coprocessor
  pireq := false
  done := false
  pendingException := false
  pending := .nothing
  statusRetry := none
  bus := .idle
  inbox := []
  draws := 0

end Sys2Proof.Machine
end

