-- ==== Sys2Proof/Machine/Format.lean ====
section
/-! DEFINITION. Data formats (spec/40_data_formats.md): fields, classes, values, widening, and the encodings of a
result. A value the operations work on is an `Exact` magnitude; a result to be encoded is a `Datum`. -/

namespace Sys2Proof.Machine

/-! ### Precisions as rounding targets (R210) -/

/-- `P`, the significand bits with the leading one. -/
def precBits : Prec → Nat
  | .single => 24
  | .double => 53
  | .extended => 64

/-- `Emax`, the maximum exponent. -/
def precEmax : Prec → Int
  | .single => 127
  | .double => 1023
  | .extended => 16383

/-- `Emin`, the minimum normalized exponent. -/
def precEmin (p : Prec) : Int := 1 - precEmax p

/-- The exponent of one unit in the last place of the smallest numbers: `Emin - P + 1`. -/
def precLeast (p : Prec) : Int := precEmin p - precBits p + 1

/-! ### Exact values -/

/-- A real number by its binary digits: the magnitude is `mant * 2^exp` when `sticky` is false, and lies strictly
between that and `(mant + 1) * 2^exp` when it is true. A producer that sets `sticky` gives `mant` at least 68 bits,
more than any destination keeps, so every rounding decision is determined (spec/41_operation_model.md R240). -/
structure Exact where
  neg : Bool
  mant : Nat
  exp : Int
  sticky : Bool
deriving DecidableEq, Repr

/-- `n * 2^k`, the bits below the point dropped. -/
def scale (n : Nat) (k : Int) : Nat := if 0 ≤ k then n <<< k.toNat else n >>> (-k).toNat

/-- The exponent of the leading one bit of a magnitude. -/
def Exact.top (z : Exact) : Int := (z.mant.log2 : Int) + z.exp

/-- The whole units of `2^q` in the magnitude. -/
def Exact.floorAt (z : Exact) (q : Int) : Nat := scale z.mant (z.exp - q)

/-- Is the magnitude a whole number of units of `2^q`? -/
def Exact.exactAt (z : Exact) (q : Int) : Bool :=
  !z.sticky && (decide (q ≤ z.exp) || z.mant % 2 ^ (q - z.exp).toNat == 0)

/-- A signed dyadic number without rounding. -/
def Exact.ofInt (m : Int) (e : Int) : Exact := ⟨decide (m < 0), m.natAbs, e, false⟩

/-- The signed integer `val / 2^e`, for `e` not above the exponent. -/
def Exact.toIntAt (z : Exact) (e : Int) : Int :=
  if z.neg then -(z.floorAt e : Int) else (z.floorAt e : Int)

/-! ### Double-extended patterns (R187, R190, R196) -/

def extSign (v : Extended) : Bool := v.getLsbD 79
def extExponent (v : Extended) : Nat := (v.extractLsb' 64 15).toNat
def extJ (v : Extended) : Bool := v.getLsbD 63
def extFraction (v : Extended) : BitVec 63 := v.extractLsb' 0 63
def extSignificand (v : Extended) : Nat := (v.extractLsb' 0 64).toNat

/-- Sign, exponent field, J and fraction side by side. -/
def packExt (neg : Bool) (exponent significand : Nat) : Extended :=
  BitVec.ofBool neg ++ BitVec.ofNat 15 exponent ++ BitVec.ofNat 64 significand

/-- The pattern with its sign replaced. -/
def extWithSign (neg : Bool) (v : Extended) : Extended := BitVec.ofBool neg ++ v.extractLsb' 0 79

/-- Operand classes (R198). -/
inductive OpClass where
  | infinity
  | trappingNan
  | quietNan
  | zero
  | unnormZero
  | normal
deriving DecidableEq, Repr

/-- `class(v)` (R190, R198), the sign left to `extSign`. -/
def classify (v : Extended) : OpClass :=
  if extExponent v = 32767 then
    if extSignificand v = 0 then .infinity
    else if v.getLsbD 62 then .quietNan
    else .trappingNan
  else if extSignificand v = 0 then
    if extExponent v = 0 then .zero else .unnormZero
  else .normal

/-- A trapping or a nontrapping NaN. -/
def isNan (v : Extended) : Bool := classify v == .trappingNan || classify v == .quietNan

/-- A zero of either kind: an unnormalized zero becomes normal zero (R198, D25; log 19). -/
def isZero (v : Extended) : Bool := classify v == .zero || classify v == .unnormZero

/-- `val(v)` of a finite pattern (R196): exponent field 0 counts as field 1 (D23; log 19). -/
def extValue (v : Extended) : Exact :=
  ⟨extSign v, extSignificand v, ((if extExponent v = 0 then 1 else extExponent v : Nat) : Int) - 16383 - 63, false⟩

/-- Exponent field 0 with J = 1: normalized by R190, with the value the same significand has in field 1 (R196). -/
def isFieldZeroNormal (v : Extended) : Bool := extExponent v == 0 && extJ v

/-! ### Widening (R197, R235) -/

/-- Widening of a number with `fbits` fraction bits, exponent bias `bias` and maximum exponent field `emax`. A
denormalized number becomes a normalized one (D24; log 19). -/
def widen (bias emax fbits : Nat) (neg : Bool) (e f : Nat) : Extended :=
  if e = emax then
    if f = 0 then packExt neg 32767 0 else packExt neg 32767 (2 ^ 63 + f <<< (63 - fbits))
  else if e = 0 then
    if f = 0 then packExt neg 0 0
    else packExt neg (16384 + f.log2 - bias - fbits) (f <<< (63 - f.log2))
  else packExt neg (16383 + e - bias) (2 ^ 63 + f <<< (63 - fbits))

/-- Single precision to double-extended (R182, R183, R197). -/
def widenSingle (w : Word) : Extended :=
  widen 127 255 23 (w.getLsbD 31) (w.extractLsb' 23 8).toNat (w.extractLsb' 0 23).toNat

/-- Double precision to double-extended (R185, R186, R197). -/
def widenDouble (d : BitVec 64) : Extended :=
  widen 1023 2047 52 (d.getLsbD 63) (d.extractLsb' 52 11).toNat (d.extractLsb' 0 52).toNat

/-! ### Results -/

/-- A floating-point result before its encoding (spec/41_operation_model.md R260). -/
inductive Datum where
  /-- A propagated nontrapping NaN: sign, J and fraction, whose most significant bit is 1. -/
  | nan (neg j : Bool) (fraction : BitVec 63)
  /-- The NaN the MAU generates (R237). -/
  | generatedNan
  | infinity (neg : Bool)
  | zero (neg : Bool)
  /-- `(-1)^neg * sig * 2^lsb`, `sig` nonzero and representable in the destination. -/
  | finite (neg : Bool) (sig : Nat) (lsb : Int)
deriving DecidableEq, Repr

/-- The sign bit of the value stored (R261). -/
def Datum.sign : Datum → Bool
  | .nan neg _ _ => neg
  | .generatedNan => false
  | .infinity neg => neg
  | .zero neg => neg
  | .finite neg _ _ => neg

/-- Is 0 stored? (R261) -/
def Datum.isZero : Datum → Bool
  | .zero _ => true
  | .nan _ _ _ => false
  | .generatedNan => false
  | .infinity _ => false
  | .finite _ _ _ => false

/-- The biased exponent field and the `P`-bit significand of a finite number at precision `p` (R211): field 0 below
`2^Emin`, field 1 from there on (R196, log 19). -/
def finiteFields (p : Prec) (sig : Nat) (lsb : Int) : Nat × Nat :=
  let top := (sig.log2 : Int) + lsb
  if top < precEmin p then (0, scale sig (lsb - precLeast p))
  else ((top + precEmax p).toNat, scale sig (lsb - (top - precBits p + 1)))

/-- A NaN fraction brought to precision `p`: unchanged where it fits, otherwise still nontrapping with the other bits
the parameter's (R236, D27; log 21). -/
def narrowFraction (p : Prec) (f : BitVec 63) : BitVec 63 :=
  match p with
  | .single => if f.extractLsb' 0 40 = 0 then f else 1#1 ++ Config.nanNarrow .single f
  | .double => if f.extractLsb' 0 11 = 0 then f else 1#1 ++ Config.nanNarrow .double f
  | .extended => f

/-- Single-precision encoding (R182, R211, R236, R237). -/
def encodeSingle : Datum → Word
  | .nan neg _ f => BitVec.ofBool neg ++ 0xFF#8 ++ (narrowFraction .single f).extractLsb' 40 23
  | .generatedNan => 0x7FFFFFFF
  | .infinity neg => BitVec.ofBool neg ++ 0xFF#8 ++ 0#23
  | .zero neg => BitVec.ofBool neg ++ 0#8 ++ 0#23
  | .finite neg sig lsb =>
    let ef := finiteFields .single sig lsb
    BitVec.ofBool neg ++ BitVec.ofNat 8 ef.1 ++ BitVec.ofNat 23 ef.2

/-- Double-precision encoding (R185, R211, R236, R237). -/
def encodeDouble : Datum → BitVec 64
  | .nan neg _ f => BitVec.ofBool neg ++ 0x7FF#11 ++ (narrowFraction .double f).extractLsb' 11 52
  | .generatedNan => 0x7FFFFFFFFFFFFFFF
  | .infinity neg => BitVec.ofBool neg ++ 0x7FF#11 ++ 0#52
  | .zero neg => BitVec.ofBool neg ++ 0#11 ++ 0#52
  | .finite neg sig lsb =>
    let ef := finiteFields .double sig lsb
    BitVec.ofBool neg ++ BitVec.ofNat 11 ef.1 ++ BitVec.ofNat 52 ef.2

/-- Double-extended encoding (R191, spec/41_operation_model.md R260): J = 0 in an infinity, J = 1 in a normalized
number. -/
def encodeExtended : Datum → Extended
  | .nan neg j f => BitVec.ofBool neg ++ 0x7FFF#15 ++ BitVec.ofBool j ++ f
  | .generatedNan => 0x7FFFFFFFFFFFFFFFFFFF
  | .infinity neg => packExt neg 32767 0
  | .zero neg => packExt neg 0 0
  | .finite neg sig lsb =>
    let ef := finiteFields .extended sig lsb
    packExt neg ef.1 ef.2

/-- What a register of precision `p` receives: the double-extended pattern (spec/41_operation_model.md R260, R236). -/
def encodeRegister (p : Prec) (d : Datum) : Extended :=
  match d with
  | .nan neg j f => encodeExtended (.nan neg j (narrowFraction p f))
  | d => encodeExtended d

/-- The words a memory destination receives, left-justified in 96 bits as in DR; `fill` supplies the indeterminate
bits (spec/20_memory.md R99, R112, spec/40_data_formats.md R188). -/
def encodeMemory (n : MemSize) (fill : Triple) (d : Datum) : Triple :=
  match n with
  | .one => encodeSingle d ++ fill.extractLsb' 0 64
  | .two => encodeDouble d ++ fill.extractLsb' 0 32
  | .three => 0#16 ++ encodeExtended d

/-! ### The fault format of DR (spec/60_exceptions.md R415) -/

/-- L, G, R, S, ten unspecified bits, sign, 17-bit exponent, significand. -/
def faultImage (lgrs : BitVec 4) (gap : BitVec 10) (neg : Bool) (exponent : BitVec 17) (sig : BitVec 64) : Triple :=
  lgrs ++ gap ++ BitVec.ofBool neg ++ exponent ++ sig

/-- `fault_image_of(v, lgrs)`: the image of a double-extended pattern. -/
def faultImageOf (v : Extended) (lgrs : BitVec 4) (gap : BitVec 10) : Triple :=
  faultImage lgrs gap (extSign v) (BitVec.ofNat 17 (extExponent v)) (v.extractLsb' 0 64)

/-! ### Decimal (R200 to R203) -/

/-- Digit `D_k`, k = 0 to 17. -/
def decDigit (t : Triple) (k : Nat) : Nat := (t.extractLsb' (4 * k + 4) 4).toNat

/-- The eighteen digits, most significant first. -/
def decDigits (t : Triple) : List Nat := (List.range 18).reverse.map (decDigit t)

/-- A decimal operand (R202). -/
inductive Decimal where
  | infinity (neg : Bool)
  | trappingNan
  | signedNan (neg : Bool)
  /-- A number sign with a digit above 9: a nontrapping NaN whose sign is not stated. -/
  | badDigitNan
  | number (neg : Bool) (magnitude : Nat)
deriving DecidableEq, Repr

/-- Classification and value of a decimal operand (R201, R202). -/
def decClassify (t : Triple) : Decimal :=
  let sign := (t.extractLsb' 0 4).toNat
  if sign = 0 then .infinity false
  else if sign = 1 then .infinity true
  else if sign = 2 then .signedNan false
  else if sign = 3 then .signedNan true
  else if sign ≤ 9 then .trappingNan
  else if (decDigits t).any (fun d => 10 ≤ d) then .badDigitNan
  else .number (sign == 11 || sign == 13) ((decDigits t).foldl (fun acc d => 10 * acc + d) 0)

/-- The 72 bits of the eighteen decimal digits of `n < 10^18`, D17 in the high bits: digit k is `n / 10^k % 10`. -/
def decPack (n : Nat) : BitVec 72 :=
  BitVec.ofNat 72 ((List.range 18).foldl (fun acc k => acc + (n / 10 ^ k % 10) * 16 ^ k) 0)

/-- The sign nibble the MAU writes for a number: one of Table 2-7's codes of that sign (R201, spec/45_conversion.md
R355; log 29). -/
def decSignNibble (neg : Bool) : BitVec 4 :=
  if neg then
    if Config.decSignNegative then 0b1101 else 0b1011
  else if Config.decSignPositive = 0 then 0b1010
  else if Config.decSignPositive = 1 then 0b1100
  else if Config.decSignPositive = 2 then 0b1110
  else 0b1111

end Sys2Proof.Machine
end

