-- ==== Sys2Proof/Machine/Rounding.lean ====
section
/-! DEFINITION. Rounding, overflow, underflow and inexact: the common tail `Finish` of every rounded operation
(spec/41_operation_model.md R238 to R247). -/

namespace Sys2Proof.Machine

/-! ### Rounding to a grid (R240) -/

/-- Does rounding to a multiple of `2^q` take the magnitude up? RN goes to the nearer neighbour and, from the middle,
to the even one; RP and RM go up in magnitude for one sign; RZ never does. -/
def roundsUp (rc : RoundMode) (q : Int) (z : Exact) : Bool :=
  match rc with
  | .nearest => z.floorAt (q - 1) % 2 == 1 && (!z.exactAt (q - 1) || z.floorAt q % 2 == 1)
  | .towardPlus => !z.neg && !z.exactAt q
  | .towardMinus => z.neg && !z.exactAt q
  | .towardZero => false

/-- The rounded magnitude in units of `2^q`. -/
def roundAt (rc : RoundMode) (q : Int) (z : Exact) : Nat :=
  z.floorAt q + (roundsUp rc q z).toNat

/-- The unit in the last place of a nonzero `z` on the unbounded grid `U_p`. -/
def unitOf (p : Prec) (z : Exact) : Int := z.top - precBits p + 1

/-- Rounding to an integer (R241). -/
def roundToInt (rc : RoundMode) (z : Exact) : Int :=
  if z.neg then -(roundAt rc 0 z : Int) else (roundAt rc 0 z : Int)

/-- L, G, R, S of the unrounded magnitude when the last kept bit has weight `2^q` (R247; log 40). -/
def lgrsAt (q : Int) (z : Exact) : BitVec 4 :=
  BitVec.ofBool (z.floorAt q % 2 == 1) ++ BitVec.ofBool (z.floorAt (q - 1) % 2 == 1)
    ++ BitVec.ofBool (z.floorAt (q - 2) % 2 == 1) ++ BitVec.ofBool (!z.exactAt (q - 2))

/-! ### What a signalled exception leaves for the handler -/

/-- The information a signalled exception puts in DR (spec/60_exceptions.md R416 to R420). -/
inductive TrapInfo where
  /-- DR is unspecified. -/
  | unspecified
  /-- The image of an operand, L, G, R, S undefined (R416, R418). -/
  | operand (v : Extended)
  /-- The rounded result of an overflow or underflow with its true exponent (R417). -/
  | rounded (neg : Bool) (top : Int) (sig64 : Nat) (lgrs : BitVec 4)
  /-- The inexact result `r` at precision `p`; `gradual` marks a masked underflow that lost accuracy (R419, R420).
  `lgrs` is `none` for a zero, which has no significand to take them from (R247; log 24). -/
  | inexact (r : Datum) (p : Prec) (gradual : Bool) (lgrs : Option (BitVec 4))
deriving DecidableEq, Repr

/-- The result of `Finish`: sticky bits to set, the exception to signal if any, and the value to deliver if none. -/
structure Finished where
  os : Bool
  us : Bool
  ps : Bool
  trap : Option TrapInfo
  value : Datum
deriving DecidableEq, Repr

/-- The inexact condition (R244): PS, and the exception when PM is 1. -/
def finishInexact (asr : Asr) (inexact os us : Bool) (info : TrapInfo) (r : Datum) : Finished :=
  ⟨os, us, inexact, if inexact && asr.pm then some info else none, r⟩

/-- The value a masked overflow substitutes (R242). -/
def overflowValue (p : Prec) (rc : RoundMode) (neg : Bool) : Datum :=
  let largest := Datum.finite neg (2 ^ precBits p - 1) (precEmax p - precBits p + 1)
  match rc with
  | .nearest => .infinity neg
  | .towardZero => largest
  | .towardMinus => if neg then .infinity neg else largest
  | .towardPlus => if neg then largest else .infinity neg

/-- A magnitude in units of `2^lsb` as a datum. -/
def datumOf (neg : Bool) (sig : Nat) (lsb : Int) : Datum := if sig = 0 then .zero neg else .finite neg sig lsb

/-- A significand left-justified in 64 bits, J first. -/
def leftJustify (sig : Nat) : Nat := scale sig (63 - (sig.log2 : Int))

/-- `Finish(z, p, rc)` (R246) with R242, R243 and R244. `forced` says that the inexact condition exists whatever the
outcome (RTOI of a non-integer, the transcendental operations, PI). -/
def finish (asr : Asr) (p : Prec) (rc : RoundMode) (forced : Bool) (z : Exact) : Finished :=
  if z.mant = 0 && !z.sticky then
    finishInexact asr forced false false (.inexact (.zero z.neg) p false none) (.zero z.neg)
  else
    let q := unitOf p z
    let u := roundAt rc q z
    let utop := (u.log2 : Int) + q
    if precEmax p < utop then
      if asr.om then
        ⟨true, false, false, some (.rounded z.neg utop (leftJustify u) (lgrsAt q z)), .zero z.neg⟩
      else
        finishInexact asr true true false (.inexact (overflowValue p rc z.neg) p false (some (lgrsAt q z)))
          (overflowValue p rc z.neg)
    else if z.top < precEmin p ∧ utop < precEmin p then
      if asr.um then
        ⟨false, true, false, some (.rounded z.neg utop (leftJustify u) (lgrsAt q z)), .zero z.neg⟩
      else
        let qd := precLeast p
        let r := datumOf z.neg (roundAt rc qd z) qd
        let lossy := !z.exactAt qd
        finishInexact asr (lossy || forced) false lossy (.inexact r p lossy (some (lgrsAt qd z))) r
    else
      let r := Datum.finite z.neg u q
      finishInexact asr (!z.exactAt q || forced) false false (.inexact r p false (some (lgrsAt q z))) r

/-! ### DR after a signalled exception -/

/-- The `P` significand bits of an infinity, its implicit bit first: the fraction is 0 (spec/60_exceptions.md R420). -/
def infinitySignificand (p : Prec) (implicitBit : Bool) : Nat := implicitBit.toNat <<< (precBits p - 1)

/-- The DR image of an inexact result (spec/60_exceptions.md R419, R420; D42, log 35). In peripheral mode a single or
double result stays in its own precision, right-justified with its implicit bit, below 32 unspecified bits. -/
def inexactDr (mode : Mode) (draw : Nat) (r : Datum) (p : Prec) (gradual : Bool) (lgrs : BitVec 4) : Triple :=
  match r with
  | .finite neg sig lsb =>
    if gradual ∧ precEmin p ≤ (sig.log2 : Int) + lsb then Config.freeDr draw
    else if mode = .peripheral ∧ p ≠ .extended then
      Config.freeNarrowHead draw ++ BitVec.ofNat 64 (finiteFields p sig lsb).2
    else if gradual then
      faultImage lgrs (Config.freeGap draw) neg (BitVec.ofInt 17 (precEmin p - 1 + 16383))
        (BitVec.ofNat 64 (sig <<< (64 - precBits p)))
    else faultImageOf (encodeExtended r) lgrs (Config.freeGap draw)
  | .zero _ =>
    if mode = .peripheral ∧ p ≠ .extended then Config.freeNarrowHead draw ++ 0#64
    else faultImageOf (encodeExtended r) lgrs (Config.freeGap draw)
  | .infinity _ =>
    if mode = .peripheral ∧ p ≠ .extended then
      Config.freeNarrowHead draw ++ BitVec.ofNat 64 (infinitySignificand p (Config.freeImplicitBit draw))
    else faultImageOf (encodeExtended r) lgrs (Config.freeGap draw)
  | .nan _ _ _ => Config.freeDr draw
  | .generatedNan => Config.freeDr draw

/-- DR after a signalled exception (spec/60_exceptions.md R415 to R420). -/
def trapDr (mode : Mode) (draw : Nat) : TrapInfo → Triple
  | .unspecified => Config.freeDr draw
  | .operand v => faultImageOf v (Config.freeLgrs draw) (Config.freeGap draw)
  | .rounded neg top sig64 lgrs =>
    faultImage lgrs (Config.freeGap draw) neg (BitVec.ofInt 17 (top + 16383)) (BitVec.ofNat 64 sig64)
  | .inexact r p gradual lgrs => inexactDr mode draw r p gradual (lgrs.getD (Config.freeLgrs draw))

end Sys2Proof.Machine
end

