-- ==== Sys2Proof/Machine/Operands.lean ====
section
/-! DEFINITION. Operand forms: reading and writing the registers, the words of the latches, and every source and
destination form of spec/41_operation_model.md R223 to R226. -/

namespace Sys2Proof.Machine

/-! ### Registers (spec/10_state.md R23) -/

/-- `x[i]`. -/
def RegFile.get (f : RegFile) : Reg → Extended
  | .f0 => f.f0
  | .f1 => f.f1
  | .f2 => f.f2
  | .f3 => f.f3
  | .f4 => f.f4
  | .f5 => f.f5
  | .f6 => f.f6
  | .f7 => f.f7

/-- `x[i] <- v`: all 80 bits (spec/10_state.md R24). -/
def RegFile.set (f : RegFile) (r : Reg) (v : Extended) : RegFile :=
  match r with
  | .f0 => { f with f0 := v }
  | .f1 => { f with f1 := v }
  | .f2 => { f with f2 := v }
  | .f3 => { f with f3 := v }
  | .f4 => { f with f4 := v }
  | .f5 => { f with f5 := v }
  | .f6 => { f with f6 := v }
  | .f7 => { f with f7 := v }

/-- A destination written: only a register destination changes a register. -/
def RegFile.write (f : RegFile) (d : Dst) (v : Extended) : RegFile :=
  match d with
  | .reg r _ => f.set r v
  | .mem _ => f
  | .none => f

/-! ### Words of a triple (spec/20_memory.md R88, R99) -/

/-- Word `k` of a left-justified triple, k = 0 most significant. -/
def tripleWord (t : Triple) (k : Nat) : Word :=
  match k with
  | 0 => t.extractLsb' 64 32
  | 1 => t.extractLsb' 32 32
  | _ => t.extractLsb' 0 32

/-! ### Sources -/

/-- The floating-point value of a source (R223, R224): a register as stored, one word single precision, two words
double precision, three words double-extended with bits 95-80 ignored. `missing` is the unspecified value of an absent
operand (R157; log 17), also taken where the words have not all arrived. -/
def floatSource (src : Src) (ws : List Word) (f : RegFile) (missing : Extended) : Extended :=
  match src with
  | .reg r => f.get r
  | .none => missing
  | .mem .one =>
    match ws with
    | [w0] => widenSingle w0
    | _ => missing
  | .mem .two =>
    match ws with
    | [w0, w1] => widenDouble (w0 ++ w1)
    | _ => missing
  | .mem .three =>
    match ws with
    | [w0, w1, w2] => w0.extractLsb' 0 16 ++ w1 ++ w2
    | _ => missing

/-- Op1 of a floating-point operation. -/
def source1 (o : Operands) (s : State) : Extended := floatSource o.op1 s.op1In s.regs (Config.freeOp1 s.draws)

/-- Op2 of a floating-point operation. -/
def source2 (o : Operands) (s : State) : Extended := floatSource o.op2 s.op2In s.regs (Config.freeOp2 s.draws)

/-- The last word of a raw memory Op1 (ITOF, WRASR: R224), unspecified for a register, an absent operand or missing
words (D35; log 28). -/
def lastWordOp1 (o : Operands) (s : State) : Word :=
  let missing := tripleWord (Config.freeRawOp1 s.draws) 0
  match o.op1 with
  | .mem n => if s.op1In.length = n.words then s.op1In.getLastD missing else missing
  | .reg _ => missing
  | .none => missing

/-- The 96 bits of a raw triple-word Op1 (DTOF, LDR: R224), unspecified for every other shape (D35; log 28). -/
def tripleOp1 (o : Operands) (s : State) : Triple :=
  match o.op1 with
  | .mem .three =>
    match s.op1In with
    | [w0, w1, w2] => w0 ++ w1 ++ w2
    | _ => Config.freeRawOp1 s.draws
  | .mem .one => Config.freeRawOp1 s.draws
  | .mem .two => Config.freeRawOp1 s.draws
  | .reg _ => Config.freeRawOp1 s.draws
  | .none => Config.freeRawOp1 s.draws

/-! ### Destinations and modes -/

/-- The destination precision (R226); unspecified without a destination (R157; log 17). -/
def destPrec (o : Operands) (s : State) : Prec :=
  match o.op3 with
  | .reg _ p => p
  | .mem .one => .single
  | .mem .two => .double
  | .mem .three => .extended
  | .none => Config.freePrec s.draws

/-- The effective rounding mode (R239). -/
def roundMode (o : Operands) (s : State) : RoundMode := o.rc.getD s.asr.rc

/-- The image a memory destination receives of a floating-point result; the other destinations have none. -/
def memoryImage (o : Operands) (s : State) (d : Datum) : Triple :=
  match o.op3 with
  | .mem n => encodeMemory n (Config.freeImage s.draws) d
  | .reg _ _ => Config.freeImage s.draws
  | .none => Config.freeImage s.draws

/-- The words a double-extended destination in memory receives of a pattern that is copied bit for bit
(spec/40_data_formats.md R188). -/
def patternImage (o : Operands) (s : State) (v : Extended) : Triple :=
  match o.op3 with
  | .mem _ => 0#16 ++ v
  | .reg _ _ => Config.freeImage s.draws
  | .none => Config.freeImage s.draws

/-- Is the destination an operand register? (R252) -/
def dstIsReg : Dst → Bool
  | .reg _ _ => true
  | .mem _ => false
  | .none => false

/-- Is the source an operand register? (R253) -/
def srcIsReg : Src → Bool
  | .reg _ => true
  | .mem _ => false
  | .none => false

end Sys2Proof.Machine
end

