-- ==== Sys2Proof/Machine/Flags.lean ====
section
/-! DEFINITION. The auxiliary status register as a word, and every condition-flag computation. -/

namespace Sys2Proof.Machine

/-! ### ASR as a word (spec/10_state.md R25) -/

/-- The word every read of the ASR gives: bits 30-26 are 0 (R41) and VER is 001 (R27). -/
def Asr.toWord (a : Asr) : Word :=
  BitVec.ofBool a.ra ++ 0#5 ++ BitVec.ofBool a.ecp ++ BitVec.ofBool a.ntnc ++ a.rc.code
    ++ BitVec.ofBool a.n ++ BitVec.ofBool a.z ++ BitVec.ofBool a.io ++ BitVec.ofBool a.ps ++ BitVec.ofBool a.csc
    ++ BitVec.ofBool a.uo ++ BitVec.ofBool a.wf
    ++ BitVec.ofBool a.im ++ BitVec.ofBool a.om ++ BitVec.ofBool a.um ++ BitVec.ofBool a.qm ++ BitVec.ofBool a.pm
    ++ BitVec.ofBool a.is ++ BitVec.ofBool a.os ++ BitVec.ofBool a.us ++ BitVec.ofBool a.qs
    ++ BitVec.ofBool a.pr ++ BitVec.ofBool a.uw ++ 0b001#3 ++ BitVec.ofBool a.fe

/-- A software write of the ASR (R43): bits 30-26 and VER are not writable, every other bit takes the written value,
UW and WF whatever FE is (D10; log 10). -/
def Asr.ofWord (w : Word) : Asr where
  ra := w.getLsbD 31
  ecp := w.getLsbD 25
  ntnc := w.getLsbD 24
  rc := RoundMode.ofCode (w.extractLsb' 22 2)
  n := w.getLsbD 21
  z := w.getLsbD 20
  io := w.getLsbD 19
  ps := w.getLsbD 18
  csc := w.getLsbD 17
  uo := w.getLsbD 16
  wf := w.getLsbD 15
  im := w.getLsbD 14
  om := w.getLsbD 13
  um := w.getLsbD 12
  qm := w.getLsbD 11
  pm := w.getLsbD 10
  is := w.getLsbD 9
  os := w.getLsbD 8
  us := w.getLsbD 7
  qs := w.getLsbD 6
  pr := w.getLsbD 5
  uw := w.getLsbD 4
  fe := w.getLsbD 0

/-! ### Condition flags -/

/-- The five condition flags an operation writes. -/
structure CondFlags where
  n : Bool
  z : Bool
  io : Bool
  pr : Bool
  uo : Bool
deriving DecidableEq, Repr

/-- The standard flags of the value stored (spec/41_operation_model.md R261). -/
def standardFlags (d : Datum) : CondFlags := ⟨d.sign, d.isZero, false, false, false⟩

/-- N and Z unspecified, the other flags 0: a signalled exception (spec/41_operation_model.md R263, D30; log 23). -/
def trappedFlags (draw : Nat) : CondFlags := ⟨Config.freeN draw, Config.freeZ draw, false, false, false⟩

/-- How two operands compare (spec/43_compare.md R311). -/
inductive Relation where
  | less
  | equal
  | greater
  | unordered
deriving DecidableEq, Repr

/-- The flags of CMP and CMPE (spec/43_compare.md R312). -/
def compareFlags (r : Relation) : CondFlags := ⟨r == .less, r == .equal, false, false, r == .unordered⟩

/-- The flags of CMPS and CMPES: N and Z exchanged (spec/43_compare.md R312). -/
def swappedFlags (r : Relation) : CondFlags := ⟨r == .equal, r == .less, false, false, r == .unordered⟩

/-- The flags of a signalled compare: UO is 1, N and Z unspecified (spec/43_compare.md R313). -/
def trappedCompareFlags (draw : Nat) : CondFlags := ⟨Config.freeN draw, Config.freeZ draw, false, false, true⟩

/-- The flags of an integer or decimal overflow: IO is 1, N and Z unspecified (spec/45_conversion.md R352, R353). -/
def overflowedFlags (draw : Nat) : CondFlags := ⟨Config.freeN draw, Config.freeZ draw, true, false, false⟩

end Sys2Proof.Machine
end

