-- ==== Sys2Proof/Machine/Ops.lean ====
section
/-! DEFINITION. The shared operations of every instruction: the Table 5-7 actions, signalling an exception, delivering
a result, and completing a transaction in either protocol (spec/41_operation_model.md, spec/60_exceptions.md R410,
spec/20_memory.md R98, R109).

There is no trap handler, no saved program counter and no return inside the MAU (spec/60_exceptions.md R400, R466), so
`raiseException` is all of exception entry and nothing stands for a return. -/

namespace Sys2Proof.Machine

/-- What an operation that sets CSC yields (spec/41_operation_model.md R220): the sticky bits it sets, its flags, the
exception it signals if any, and the result for a register and for memory. -/
structure OpResult where
  is : Bool
  os : Bool
  us : Bool
  qs : Bool
  ps : Bool
  flags : CondFlags
  trap : Option TrapInfo
  reg : Extended
  image : Triple
deriving DecidableEq, Repr

/-! ### Results -/

/-- A result delivered without any exception or sticky bit. -/
def deliverDatum (o : Operands) (s : State) (d : Datum) : OpResult :=
  ⟨false, false, false, false, false, standardFlags d, none, encodeRegister (destPrec o s) d, memoryImage o s d⟩

/-- The result of `Finish`, its flags those of the value stored, or free ones when an exception is signalled. -/
def deliverFinished (o : Operands) (s : State) (r : Finished) : OpResult :=
  ⟨false, r.os, r.us, false, r.ps, if r.trap.isSome then trappedFlags s.draws else standardFlags r.value, r.trap,
    encodeRegister (destPrec o s) r.value, memoryImage o s r.value⟩

/-- Action 8 on an exact result (R258): `Finish(z, p, rc)`. -/
def deliverExact (o : Operands) (s : State) (z : Exact) : OpResult :=
  deliverFinished o s (finish s.asr (destPrec o s) (roundMode o s) false z)

/-- A finite nonzero operand as the result: `Finish` of its value (R246, R255). A double-extended destination gets every
normalized pattern unchanged (spec/60_exceptions.md R450, spec/44_data_transfer.md R331 (a)), so one with exponent field 0
is not rewritten with field 1 (log 19). -/
def deliverNumber (o : Operands) (s : State) (v : Extended) : OpResult :=
  if isFieldZeroNormal v ∧ destPrec o s = .extended then
    { deliverExact o s (extValue v) with reg := v, image := patternImage o s v }
  else deliverExact o s (extValue v)

/-- Actions 3 and 6 (R255): the named operand becomes the result as if by MOVE. A trapping NaN never gets here. -/
def deliverOperand (o : Operands) (s : State) (v : Extended) : OpResult :=
  match classify v with
  | .infinity => deliverDatum o s (.infinity (extSign v))
  | .trappingNan => deliverDatum o s (.nan (extSign v) (extJ v) (extFraction v))
  | .quietNan => deliverDatum o s (.nan (extSign v) (extJ v) (extFraction v))
  | .zero => deliverDatum o s (.zero (extSign v))
  | .unnormZero => deliverDatum o s (.zero (extSign v))
  | .normal => deliverNumber o s v

/-- Is an invalid operation signalled? IM, or with IM = 0 NTNC (spec/60_exceptions.md R413). -/
def invalidEnabled (a : Asr) : Bool := a.im || a.ntnc

/-- Actions 1, 1a and 1b (R251 to R253): IS, and either the exception with `info` in DR or the generated NaN. -/
def invalidOperation (o : Operands) (s : State) (info : TrapInfo) : OpResult :=
  if invalidEnabled s.asr then
    { deliverDatum o s .generatedNan with is := true, flags := trappedFlags s.draws, trap := some info }
  else { deliverDatum o s .generatedNan with is := true }

/-- Action 1 of a two-operand instruction: the information is Op1 if it is a trapping NaN, else Op2 (R251, C4). -/
def invalidPair (o : Operands) (s : State) (a b : Extended) : OpResult :=
  invalidOperation o s (.operand (if classify a = .trappingNan then a else b))

/-- Action 2 (R254): QS, and either the exception with the dividend in DR or an infinity. -/
def divideByZero (o : Operands) (s : State) (a b : Extended) : OpResult :=
  let r := deliverDatum o s (.infinity (extSign a != extSign b))
  if s.asr.qm then { r with qs := true, flags := trappedFlags s.draws, trap := some (.operand b) }
  else { r with qs := true }

/-! ### ASR after an operation -/

/-- The ASR of a finished operation that sets CSC (R220, R264): its sticky bits and flags, CSC, RA, and ECP set when an
exception is signalled; otherwise ECP follows `ecp_clear_policy` (spec/60_exceptions.md R408, R409; log 34). -/
def asrAfter (a : Asr) (r : OpResult) : Asr :=
  { a with
    ra := true
    ecp := r.trap.isSome || (a.ecp && !Config.ecpClearedByEachOperation)
    n := r.flags.n
    z := r.flags.z
    io := r.flags.io
    ps := a.ps || r.ps
    csc := true
    uo := r.flags.uo
    is := a.is || r.is
    os := a.os || r.os
    us := a.us || r.us
    qs := a.qs || r.qs
    pr := r.flags.pr }

/-! ### Completion -/

/-- What a completed operation leaves to be delivered in coprocessor mode (spec/20_memory.md R111, R112). -/
def pendingFor (d : Dst) (reg : Extended) (image : Triple) : Pending :=
  match d with
  | .reg r _ => .register r reg
  | .mem _ => .words image
  | .none => .nothing

/-- Completion by protocol. Peripheral: PIREQ# is asserted and the MAU is quiescent (spec/20_memory.md R98).
Coprocessor: DONE# is asserted and the status fetch is awaited (R109). The operand latches are empty again and one
draw is used up. -/
def completeTransaction (excepted : Bool) (pending : Pending) (s : State) : State :=
  { s with
    phase := if s.modeLock = .peripheral then .quiescent else .cDone
    op1In := []
    op2In := []
    pireq := s.pireq || decide (s.modeLock = .peripheral)
    done := decide (s.modeLock = .coprocessor)
    pendingException := excepted && decide (s.modeLock = .coprocessor)
    pending := if s.modeLock = .peripheral then .nothing else pending
    bus := .idle
    draws := s.draws + 1 }

/-- Taking an exception (spec/60_exceptions.md R410): the sticky bit, ECP, CSC and flags are in the ASR, the
information for the handler is in DR, the destination is not written, and the transaction completes; in coprocessor
mode the status fetch will be faulted (R411), in peripheral mode the ASR bits are all (R412). -/
def raiseException (r : OpResult) (info : TrapInfo) (s : State) : State :=
  completeTransaction true .nothing
    { s with asr := asrAfter s.asr r, dr := trapDr s.modeLock s.draws info }

/-- DR after an operation that signals nothing (spec/41_operation_model.md R265): the image of a memory result, unless
the operation does not keep it in coprocessor mode (FTOD, spec/60_exceptions.md R435); otherwise unspecified. -/
def drAfter (o : Operands) (kept : Bool) (image : Triple) (s : State) : Triple :=
  match o.op3 with
  | .mem _ => if kept || decide (s.modeLock = .peripheral) then image else Config.freeDr s.draws
  | .reg _ _ => Config.freeDr s.draws
  | .none => Config.freeDr s.draws

/-- The registers right after an operation that signals nothing: a register destination is written at once in
peripheral mode (spec/20_memory.md R98), and only at the status fetch in coprocessor mode (R111). -/
def regsAfter (o : Operands) (v : Extended) (s : State) : RegFile :=
  if s.modeLock = .peripheral then s.regs.write o.op3 v else s.regs

/-- An operation that signals no exception delivers its result (spec/41_operation_model.md R260, R262). -/
def deliverResult (o : Operands) (kept : Bool) (r : OpResult) (s : State) : State :=
  completeTransaction false (pendingFor o.op3 r.reg r.image)
    { s with asr := asrAfter s.asr r, dr := drAfter o kept r.image s, regs := regsAfter o r.reg s }

/-- The end of every operation that sets CSC: an exception or a result. -/
def completeOperation (o : Operands) (kept : Bool) (r : OpResult) (s : State) : State :=
  match r.trap with
  | some info => raiseException r info s
  | none => deliverResult o kept r s

/-- The end of an exempt operation (RDASR, WRASR, LDR, EROF, NOP, the unassigned opcodes): no sticky bit, no CSC, no
exception; the ASR, DR, register value and result words are the operation's own. -/
def completeRaw (o : Operands) (asr : Asr) (dr : Triple) (reg : Extended) (image : Triple) (s : State) : State :=
  completeTransaction false (pendingFor o.op3 reg image)
    { s with asr := asr, dr := dr, regs := regsAfter o reg s }

/-- An outcome that goes on with the operation's end. -/
def runOperation (o : Operands) (kept : Bool) (r : OpResult) (s : State) : Host.Outcome State Fault Refusal :=
  .next (completeOperation o kept r s)

end Sys2Proof.Machine
end

