-- ==== Sys2Proof/Machine/Arith.lean ====
section
/-! DEFINITION. The arithmetic instructions ABS, ADD, SUB, MUL, DIV, REM, SQRT, NEG, RTOI (spec/42_arithmetic.md) and
MOVE's operation, which ABS and NEG share (spec/44_data_transfer.md R331). -/

namespace Sys2Proof.Machine

/-! ### Exact operations -/

/-- The exact sum as a signed integer in units of the smaller exponent. -/
def exactSum (x y : Exact) : Int × Int :=
  let e := min x.exp y.exp
  (x.toIntAt e + y.toIntAt e, e)

/-- The exact product. -/
def exactProduct (x y : Exact) : Exact := ⟨x.neg != y.neg, x.mant * y.mant, x.exp + y.exp, false⟩

/-- The exact quotient `y / x` of nonzero operands: at least 76 significant bits and whether more follow. -/
def exactQuotient (y x : Exact) : Exact :=
  let n := y.mant <<< 140
  ⟨y.neg != x.neg, n / x.mant, y.exp - x.exp - 140, n % x.mant != 0⟩

/-- The integer square root by its bits from weight `2^(k-1)` down, given that `root` is right above them. -/
def squareRootBits (n : Nat) : Nat → Nat → Nat
  | 0, root => root
  | k + 1, root =>
    let next := root + 2 ^ k
    squareRootBits n k (if next * next ≤ n then next else root)

/-- The integer square root of `n < 2^240`. -/
def squareRoot (n : Nat) : Nat := squareRootBits n 120 0

/-- The exact square root of a positive operand: at least 80 significant bits and whether more follow. -/
def exactSquareRoot (x : Exact) : Exact :=
  let odd : Nat := if x.exp % 2 = 0 then 0 else 1
  let n := x.mant <<< (160 + odd)
  let r := squareRoot n
  ⟨false, r, (x.exp - odd - 160) / 2, r * r != n⟩

/-- The sign of an exact zero sum: + in RN, RP, RZ and - in RM (spec/41_operation_model.md R257, R258, D29; log 22). -/
def zeroSumSign (rc : RoundMode) : Bool := rc == .towardMinus

/-! ### MOVE, ABS, NEG -/

/-- MOVE's operation on the value `v` with the trapping NaN `a` it came from (spec/44_data_transfer.md R331). -/
def moveOperation (o : Operands) (s : State) (a v : Extended) : OpResult :=
  if classify a = .trappingNan then invalidOperation o s (.operand a) else deliverOperand o s v

/-- ABS: the sign bit is cleared, then as MOVE (spec/42_arithmetic.md R281). -/
def absOperation (o : Operands) (s : State) : OpResult :=
  moveOperation o s (source1 o s) (extWithSign false (source1 o s))

/-- NEG: the sign bit is complemented, then as MOVE (spec/42_arithmetic.md R291). -/
def negOperation (o : Operands) (s : State) : OpResult :=
  moveOperation o s (source1 o s) (extWithSign (!extSign (source1 o s)) (source1 o s))

/-! ### ADD and SUB -/

/-- Action 8 of ADD: the exact sum, an exact zero with the sign of the mode (spec/41_operation_model.md R258). -/
def sumOperation (o : Operands) (s : State) (x y : Exact) : OpResult :=
  let m := exactSum x y
  if m.1 = 0 then deliverDatum o s (.zero (zeroSumSign (roundMode o s)))
  else deliverExact o s (Exact.ofInt m.1 m.2)

/-- The ADD table (spec/42_arithmetic.md R282). -/
def addOperation (o : Operands) (s : State) (a b : Extended) : OpResult :=
  if classify a = .trappingNan ∨ classify b = .trappingNan then invalidPair o s a b
  else if classify a = .quietNan then deliverOperand o s a
  else if classify b = .quietNan then deliverOperand o s b
  else if classify a = .infinity then
    if classify b = .infinity ∧ extSign a ≠ extSign b then invalidPair o s a b else deliverOperand o s a
  else if classify b = .infinity then deliverOperand o s b
  else if isZero a then
    if isZero b then
      deliverDatum o s (.zero (if extSign a = extSign b then extSign a else zeroSumSign (roundMode o s)))
    else deliverOperand o s b
  else if isZero b then deliverOperand o s a
  else sumOperation o s (extValue a) (extValue b)

/-- SUB: ADD with Op1's sign complemented before any special case is looked at (spec/42_arithmetic.md R283, D32;
log 25). -/
def subOperation (o : Operands) (s : State) (a b : Extended) : OpResult :=
  addOperation o s (extWithSign (!extSign a) a) b

/-! ### MUL and DIV -/

/-- The MUL table (spec/42_arithmetic.md R284). -/
def mulOperation (o : Operands) (s : State) (a b : Extended) : OpResult :=
  let sign := extSign a != extSign b
  if classify a = .trappingNan ∨ classify b = .trappingNan then invalidPair o s a b
  else if classify a = .quietNan then deliverOperand o s a
  else if classify b = .quietNan then deliverOperand o s b
  else if classify a = .infinity then
    if isZero b then invalidPair o s a b else deliverDatum o s (.infinity sign)
  else if classify b = .infinity then
    if isZero a then invalidPair o s a b else deliverDatum o s (.infinity sign)
  else if isZero a ∨ isZero b then deliverDatum o s (.zero sign)
  else deliverExact o s (exactProduct (extValue a) (extValue b))

/-- The DIV table: Op2 / Op1, `a` the divisor and `b` the dividend (spec/42_arithmetic.md R285). -/
def divOperation (o : Operands) (s : State) (a b : Extended) : OpResult :=
  let sign := extSign a != extSign b
  if classify a = .trappingNan ∨ classify b = .trappingNan then invalidPair o s a b
  else if classify a = .quietNan then deliverOperand o s a
  else if classify b = .quietNan then deliverOperand o s b
  else if classify b = .infinity then
    if classify a = .infinity then invalidPair o s a b else deliverDatum o s (.infinity sign)
  else if classify a = .infinity then deliverDatum o s (.zero sign)
  else if isZero a then
    if isZero b then invalidPair o s a b else divideByZero o s a b
  else if isZero b then deliverDatum o s (.zero sign)
  else deliverExact o s (exactQuotient (extValue b) (extValue a))

/-! ### REM -/

/-- The integer nearest to `y / x` in magnitude, ties to even, for magnitudes in the same unit and `x` nonzero. -/
def nearestQuotient (y x : Nat) : Nat :=
  let n := y / x
  let r := y % x
  if x < 2 * r ∨ (2 * r = x ∧ n % 2 = 1) then n + 1 else n

/-- `Op2 - n * Op1` as a signed integer in units of `2^e`, with `n` the nearest integer to Op2 / Op1. -/
def fullRemainder (a b : Exact) (e : Int) : Int :=
  let n := nearestQuotient (b.floorAt e) (a.floorAt e)
  let r := (b.floorAt e : Int) - (n : Int) * (a.floorAt e : Int)
  if b.neg then -r else r

/-- Is the magnitude a finite number of precision `p`? -/
def representable (p : Prec) (z : Exact) : Bool :=
  decide (z.top ≤ precEmax p) && z.exactAt (max (unitOf p z) (precLeast p))

/-- The remainder that a partial step to the multiple `n'` leaves, where it meets R289: `Op2 - n'*Op1`, smaller than
Op2 in magnitude, and a number of the destination precision `p`, so that what is stored is this remainder itself. -/
def partialRemainder (p : Prec) (a b : Exact) (e : Int) (n' : Int) : Option Int :=
  let r := b.toIntAt e - n' * a.toIntAt e
  if r.natAbs < b.floorAt e ∧ (r = 0 ∨ representable p (Exact.ofInt r e)) then some r else none

/-- Where `rem_step` stops on these operands: only when |Op2| > |Op1|, and only at a remainder R289 allows in the
destination precision (D33; log 26). -/
def remStop (p : Prec) (a b : Extended) (e : Int) : Option Int :=
  if (extValue b).floorAt e ≤ (extValue a).floorAt e then none
  else
    match Config.remStep a b with
    | none => none
    | some n' => partialRemainder p (extValue a) (extValue b) e n'

/-- A remainder as the result: a zero takes the dividend's sign (spec/42_arithmetic.md R286). A partial remainder ends in
`Finish` like a full one, so below `2^Emin` it signals underflow when UM is 1; R289 does not say (DESIGN CHOICE, log 26). -/
def deliverRemainder (o : Operands) (s : State) (b : Extended) (r e : Int) : OpResult :=
  if r = 0 then deliverDatum o s (.zero (extSign b)) else deliverExact o s (Exact.ofInt r e)

/-- PR is 1 for a partial remainder (spec/10_state.md R29). -/
def withPartial (isPartial : Bool) (r : OpResult) : OpResult := { r with flags := { r.flags with pr := isPartial } }

/-- The REM table: `a` the divisor, `b` the dividend (spec/42_arithmetic.md R286, R289). -/
def remOperation (o : Operands) (s : State) (a b : Extended) : OpResult :=
  if classify a = .trappingNan ∨ classify b = .trappingNan then invalidPair o s a b
  else if classify a = .quietNan then deliverOperand o s a
  else if classify b = .quietNan then deliverOperand o s b
  else if classify b = .infinity ∨ isZero a then invalidPair o s a b
  else if isZero b then deliverDatum o s (.zero (extSign b))
  else if classify a = .infinity then deliverOperand o s b
  else
    let e := min (extValue a).exp (extValue b).exp
    let stop := remStop (destPrec o s) a b e
    withPartial stop.isSome
      (deliverRemainder o s b (stop.getD (fullRemainder (extValue a) (extValue b) e)) e)

/-! ### SQRT and RTOI -/

/-- The SQRT table (spec/42_arithmetic.md R290). The information of an invalid operand that is no trapping NaN is
unspecified (spec/41_operation_model.md R251). -/
def sqrtOperation (o : Operands) (s : State) (a : Extended) : OpResult :=
  match classify a with
  | .trappingNan => invalidOperation o s (.operand a)
  | .quietNan => deliverOperand o s a
  | .zero => deliverOperand o s a
  | .unnormZero => deliverOperand o s a
  | .infinity => if extSign a then invalidOperation o s .unspecified else deliverOperand o s a
  | .normal =>
    if extSign a then invalidOperation o s .unspecified else deliverExact o s (exactSquareRoot (extValue a))

/-- RTOI of a finite nonzero operand: the rounded integer, a zero with the operand's sign, inexact when they differ
(spec/42_arithmetic.md R292; log 24). -/
def roundIntegral (o : Operands) (s : State) (x : Exact) : OpResult :=
  let rc := roundMode o s
  deliverFinished o s
    (finish s.asr (destPrec o s) rc (!x.exactAt 0) ⟨x.neg, roundAt rc 0 x, 0, false⟩)

/-- RTOI: the special cases of MOVE (spec/42_arithmetic.md R292, D31; log 24). -/
def rtoiOperation (o : Operands) (s : State) (a : Extended) : OpResult :=
  match classify a with
  | .trappingNan => invalidOperation o s (.operand a)
  | .quietNan => deliverOperand o s a
  | .infinity => deliverOperand o s a
  | .zero => deliverOperand o s a
  | .unnormZero => deliverOperand o s a
  | .normal => roundIntegral o s (extValue a)

/-! ### The instructions -/

/-- ADD, opcode 0x02 (R282). -/
def execAdd (o : Operands) (s : State) : Host.Outcome State Fault Refusal :=
  runOperation o true (addOperation o s (source1 o s) (source2 o s)) s

/-- SUB, opcode 0x03 (R283). -/
def execSub (o : Operands) (s : State) : Host.Outcome State Fault Refusal :=
  runOperation o true (subOperation o s (source1 o s) (source2 o s)) s

/-- DIV, opcode 0x04 (R285). -/
def execDiv (o : Operands) (s : State) : Host.Outcome State Fault Refusal :=
  runOperation o true (divOperation o s (source1 o s) (source2 o s)) s

/-- REM, opcode 0x05 (R286). -/
def execRem (o : Operands) (s : State) : Host.Outcome State Fault Refusal :=
  runOperation o true (remOperation o s (source1 o s) (source2 o s)) s

/-- MUL, opcode 0x06 (R284). -/
def execMul (o : Operands) (s : State) : Host.Outcome State Fault Refusal :=
  runOperation o true (mulOperation o s (source1 o s) (source2 o s)) s

/-- ABS, opcode 0x0C (R281). -/
def execAbs (o : Operands) (s : State) : Host.Outcome State Fault Refusal :=
  runOperation o true (absOperation o s) s

/-- SQRT, opcode 0x0D (R290). -/
def execSqrt (o : Operands) (s : State) : Host.Outcome State Fault Refusal :=
  runOperation o true (sqrtOperation o s (source1 o s)) s

/-- RTOI, opcode 0x0E (R292). -/
def execRtoi (o : Operands) (s : State) : Host.Outcome State Fault Refusal :=
  runOperation o true (rtoiOperation o s (source1 o s)) s

/-- NEG, opcode 0x17 (R291). -/
def execNeg (o : Operands) (s : State) : Host.Outcome State Fault Refusal :=
  runOperation o true (negOperation o s) s

end Sys2Proof.Machine
end

