-- ==== Sys2Proof/Machine/Compare.lean ====
section
/-! DEFINITION. The comparison instructions CMP, CMPE, CMPS, CMPES (spec/43_compare.md). -/

namespace Sys2Proof.Machine

/-- The order of two integers. -/
def relationOf (x y : Int) : Relation := if x < y then .less else if x = y then .equal else .greater

/-- An operand on the extended real line, zeros of either kind as 0, in units of `2^e`; infinities are placed beyond
every finite magnitude by `bound`. -/
def lineValue (v : Extended) (e : Int) (bound : Int) : Int :=
  if classify v = .infinity then (if extSign v then -bound else bound) else (extValue v).toIntAt e

/-- A magnitude no finite operand of the pair reaches, in units of `2^e`. -/
def lineBound (a b : Extended) (e : Int) : Int := ((extValue a).floorAt e + (extValue b).floorAt e + 1 : Nat)

/-- `rel(Op1, Op2)` (R311): unordered with any NaN, else the order of the extended reals with -0 = +0. -/
def relation (a b : Extended) : Relation :=
  if isNan a || isNan b then .unordered
  else
    let e := min (extValue a).exp (extValue b).exp
    relationOf (lineValue a e (lineBound a b e)) (lineValue b e (lineBound a b e))

/-- The result of a compare: no result of its own; an Op3 that is not absent is written with indeterminate content
(R310, spec/41_operation_model.md R225). -/
def compareResult (s : State) (invalid : Bool) (flags : CondFlags) (trap : Option TrapInfo) : OpResult :=
  ⟨invalid, false, false, false, false, flags, trap, Config.freeReg s.draws, Config.freeImage s.draws⟩

/-- A compare (R313 to R316): `strict` compares (CMPE, CMPES) are invalid when unordered, the others only with a
trapping NaN; `assign` gives the flags. -/
def compareOperation (strict : Bool) (assign : Relation → CondFlags) (o : Operands) (s : State) : OpResult :=
  let a := source1 o s
  let b := source2 o s
  let trapping := classify a == .trappingNan || classify b == .trappingNan
  let invalid := trapping || (strict && relation a b == .unordered)
  if invalid && invalidEnabled s.asr then
    compareResult s true (trappedCompareFlags s.draws)
      (some (.operand (if classify a = .trappingNan then a else b)))
  else compareResult s invalid (assign (relation a b)) none

/-- CMP, opcode 0x0A (R313). -/
def execCmp (o : Operands) (s : State) : Host.Outcome State Fault Refusal :=
  runOperation o true (compareOperation false compareFlags o s) s

/-- CMPE, opcode 0x0B (R314). -/
def execCmpe (o : Operands) (s : State) : Host.Outcome State Fault Refusal :=
  runOperation o true (compareOperation true compareFlags o s) s

/-- CMPS, opcode 0x1A (R315). -/
def execCmps (o : Operands) (s : State) : Host.Outcome State Fault Refusal :=
  runOperation o true (compareOperation false swappedFlags o s) s

/-- CMPES, opcode 0x1B (R316). -/
def execCmpes (o : Operands) (s : State) : Host.Outcome State Fault Refusal :=
  runOperation o true (compareOperation true swappedFlags o s) s

end Sys2Proof.Machine
end

