-- ==== Sys2Proof/Machine/Convert.lean ====
section
/-! DEFINITION. The conversion instructions DTOF, FTOD, FTOI, ITOF (spec/45_conversion.md). -/

namespace Sys2Proof.Machine

/-! ### To floating point -/

/-- DTOF of a decimal operand (R351, R356): no information is kept for a decimal trapping NaN. J and the fraction below
its leading bit of the NaN delivered are not stated, so they are free (log 29). -/
def fromDecimal (o : Operands) (s : State) (t : Triple) : OpResult :=
  match decClassify t with
  | .trappingNan => invalidOperation o s .unspecified
  | .infinity neg => deliverDatum o s (.infinity neg)
  | .signedNan neg => deliverDatum o s (.nan neg (Config.freeNanJ s.draws) (1#1 ++ Config.freeNanFraction s.draws))
  | .badDigitNan =>
    deliverDatum o s
      (.nan (Config.freeNanSign s.draws) (Config.freeNanJ s.draws) (1#1 ++ Config.freeNanFraction s.draws))
  | .number neg m => if m = 0 then deliverDatum o s (.zero neg) else deliverExact o s ⟨neg, m, 0, false⟩

/-- DTOF: a register source is an invalid operation (R351, action 1b). -/
def dtofOperation (o : Operands) (s : State) : OpResult :=
  if srcIsReg o.op1 then invalidOperation o s .unspecified else fromDecimal o s (tripleOp1 o s)

/-- ITOF: a register source is an invalid operation (R354, action 1b); 0 gives +0. -/
def itofOperation (o : Operands) (s : State) : OpResult :=
  if srcIsReg o.op1 then invalidOperation o s .unspecified
  else
    let i := (lastWordOp1 o s).toInt
    if i = 0 then deliverDatum o s (.zero false) else deliverExact o s (Exact.ofInt i 0)

/-! ### To integer and decimal -/

/-- A conversion result that is no floating-point datum: sticky bits IS and PS, flags, exception, memory image. -/
def convertedResult (s : State) (is ps : Bool) (flags : CondFlags) (trap : Option TrapInfo) (image : Triple) : OpResult :=
  ⟨is, false, false, false, ps, flags, trap, Config.freeReg s.draws, image⟩

/-- The inexact condition of a conversion to integer or decimal: DR is unspecified when it is signalled
(spec/60_exceptions.md R419). -/
def convertedInexact (s : State) (inexact : Bool) (flags : CondFlags) (image : Triple) : OpResult :=
  if inexact && s.asr.pm then
    convertedResult s false true (trappedFlags s.draws) (some .unspecified) image
  else convertedResult s false inexact flags none image

/-- The integer in the last word of the destination, indeterminate words before it (R353). -/
def integerImage (d : Dst) (w : Word) (fill : Triple) : Triple :=
  match d with
  | .mem .one => w ++ fill.extractLsb' 0 64
  | .mem .two => fill.extractLsb' 64 32 ++ w ++ fill.extractLsb' 0 32
  | .mem .three => fill.extractLsb' 32 64 ++ w
  | .reg _ _ => fill
  | .none => fill

/-- FTOI of a finite operand: IO and an undefined word outside -2^31 .. 2^31 - 1, else the rounded integer (R353). -/
def toInteger (o : Operands) (s : State) (x : Exact) : OpResult :=
  let i := roundToInt (roundMode o s) x
  if i < -2147483648 ∨ 2147483647 < i then
    convertedResult s false false (overflowedFlags s.draws) none (Config.freeImage s.draws)
  else
    convertedInexact s (!x.exactAt 0) ⟨decide (i < 0), decide (i = 0), false, false, false⟩
      (integerImage o.op3 (BitVec.ofInt 32 i) (Config.freeImage s.draws))

/-- FTOI of a NaN or infinity: the exception with Op1 in DR, or undefined words with N and Z unspecified
(R353 point (c), D38; log 31). -/
def toIntegerInvalid (s : State) (a : Extended) : OpResult :=
  convertedResult s true false (trappedFlags s.draws)
    (if invalidEnabled s.asr then some (.operand a) else none) (Config.freeImage s.draws)

/-- What the destination register holds already. -/
def registerBefore (o : Operands) (s : State) : Extended :=
  match o.op3 with
  | .reg r _ => s.regs.get r
  | .mem _ => Config.freeReg s.draws
  | .none => Config.freeReg s.draws

/-- FTOI of a NaN or infinity to a register: an invalid operation that leaves the register as it is, signalled or masked
(decision D38; log 31). -/
def ftoiSpecialToRegister (o : Operands) (s : State) (a : Extended) : OpResult :=
  { toIntegerInvalid s a with reg := registerBefore o s }

/-- Is the operand one FTOI cannot convert: a NaN or an infinity? -/
def ftoiSpecial (a : Extended) : Bool := isNan a || classify a == OpClass.infinity

/-- FTOI: a register destination is an invalid operation whatever the operand (R353, action 1a). -/
def ftoiOperation (o : Operands) (s : State) (a : Extended) : OpResult :=
  if dstIsReg o.op3 then
    if ftoiSpecial a then ftoiSpecialToRegister o s a else invalidOperation o s (.operand a)
  else if ftoiSpecial a then toIntegerInvalid s a
  else toInteger o s (extValue a)

/-- A decimal container: bits 95-76 are 0 (spec/40_data_formats.md R200). -/
def decimalImage (digits : BitVec 72) (sign : BitVec 4) : Triple := 0#20 ++ digits ++ sign

/-- The words FTOD delivers: the container for three words, unspecified words for fewer (D35; log 28). -/
def ftodImage (o : Operands) (s : State) (t : Triple) : Triple :=
  match o.op3 with
  | .mem .three => t
  | .mem .one => Config.freeImage s.draws
  | .mem .two => Config.freeImage s.draws
  | .reg _ _ => Config.freeImage s.draws
  | .none => Config.freeImage s.draws

/-- The flags of a decimal result; N and Z are unspecified where the words stored are (D35; log 28). -/
def ftodFlags (o : Operands) (s : State) (neg zero : Bool) : CondFlags :=
  match o.op3 with
  | .mem .one => trappedFlags s.draws
  | .mem .two => trappedFlags s.draws
  | .mem .three => ⟨neg, zero, false, false, false⟩
  | .reg _ _ => ⟨neg, zero, false, false, false⟩
  | .none => ⟨neg, zero, false, false, false⟩

/-- A decimal infinity or NaN: its sign nibble and unspecified digits (action 9, R352, R356). -/
def decimalSpecial (o : Operands) (s : State) (neg : Bool) (nibble : BitVec 4) : OpResult :=
  convertedResult s false false (ftodFlags o s neg false) none
    (ftodImage o s (decimalImage (Config.freeDigits s.draws) nibble))

/-- FTOD of a finite operand, zeros included: IO and undefined words from 10^18 on, else the digits of the rounded
integer with the operand's sign (R352, R355, D36; log 29). Neither OS nor US is ever set (D37; log 30). -/
def toDecimal (o : Operands) (s : State) (x : Exact) : OpResult :=
  let m := roundAt (roundMode o s) 0 x
  if 10 ^ 18 ≤ m then convertedResult s false false (overflowedFlags s.draws) none (Config.freeImage s.draws)
  else
    convertedInexact s (!x.exactAt 0) (ftodFlags o s x.neg (m == 0))
      (ftodImage o s (decimalImage (decPack m) (decSignNibble x.neg)))

/-- FTOD of a trapping NaN: the exception with Op1 in DR, or a decimal nontrapping NaN of positive sign (R352). -/
def toDecimalInvalid (o : Operands) (s : State) (a : Extended) : OpResult :=
  let r := decimalSpecial o s false 0b0010
  if invalidEnabled s.asr then
    { r with is := true, flags := trappedFlags s.draws, trap := some (.operand a) }
  else { r with is := true }

/-- FTOD: a register destination is an invalid operation (R352, action 1a). -/
def ftodOperation (o : Operands) (s : State) (a : Extended) : OpResult :=
  if dstIsReg o.op3 then invalidOperation o s (.operand a)
  else
    match classify a with
    | .trappingNan => toDecimalInvalid o s a
    | .quietNan => decimalSpecial o s (extSign a) (if extSign a then 0b0011 else 0b0010)
    | .infinity => decimalSpecial o s (extSign a) (if extSign a then 0b0001 else 0b0000)
    | .zero => toDecimal o s (extValue a)
    | .unnormZero => toDecimal o s (extValue a)
    | .normal => toDecimal o s (extValue a)

/-! ### The instructions -/

/-- FTOI, opcode 0x0F (R353). -/
def execFtoi (o : Operands) (s : State) : Host.Outcome State Fault Refusal :=
  runOperation o true (ftoiOperation o s (source1 o s)) s

/-- ITOF, opcode 0x10 (R354). -/
def execItof (o : Operands) (s : State) : Host.Outcome State Fault Refusal :=
  runOperation o true (itofOperation o s) s

/-- DTOF, opcode 0x11 (R351). -/
def execDtof (o : Operands) (s : State) : Host.Outcome State Fault Refusal :=
  runOperation o true (dtofOperation o s) s

/-- FTOD, opcode 0x12 (R352). Its result is not kept in DR in coprocessor mode (spec/60_exceptions.md R435). -/
def execFtod (o : Operands) (s : State) : Host.Outcome State Fault Refusal :=
  runOperation o false (ftodOperation o s (source1 o s)) s

end Sys2Proof.Machine
end

