-- ==== Sys2Proof/Machine/Transfer.lean ====
section
/-! DEFINITION. The data transfer instructions MOVE, RDASR, WRASR, LDR (spec/44_data_transfer.md). -/

namespace Sys2Proof.Machine

/-- MOVE, opcode 0x07 (R331). -/
def execMove (o : Operands) (s : State) : Host.Outcome State Fault Refusal :=
  runOperation o true (moveOperation o s (source1 o s) (source1 o s)) s

/-- The ASR when an exempt operation has completed: RA is set, nothing else changes (spec/10_state.md R35). -/
def asrCompleted (a : Asr) : Asr := { a with ra := true }

/-- The word RDASR stores: the ASR, bit 31 unspecified (R333, D34; log 27), bit 18 the stored PS (D9; log 9). -/
def rdasrWord (s : State) : Word := { s.asr with ra := Config.freeRdasrRa s.draws }.toWord

/-- A word in each of the first `n` words, the others indeterminate. -/
def repeatWord (n : MemSize) (w : Word) (fill : Triple) : Triple :=
  match n with
  | .one => w ++ fill.extractLsb' 0 64
  | .two => w ++ w ++ fill.extractLsb' 0 32
  | .three => w ++ w ++ w

/-- The image RDASR delivers: every word the ASR (R333). -/
def rdasrImage (o : Operands) (s : State) : Triple :=
  match o.op3 with
  | .mem n => repeatWord n (rdasrWord s) (Config.freeImage s.draws)
  | .reg _ _ => Config.freeImage s.draws
  | .none => Config.freeImage s.draws

/-- DR after an exempt operation that leaves it unaffected: in peripheral mode a memory result is read from DR
(R333 point (c), spec/20_memory.md R99; log 42). -/
def drKept (o : Operands) (image : Triple) (s : State) : Triple :=
  match o.op3 with
  | .mem _ => if s.modeLock = .peripheral then image else s.dr
  | .reg _ _ => s.dr
  | .none => s.dr

/-- RDASR, opcode 0x08 (R333). A register destination becomes unspecified (D35; log 28). -/
def execRdasr (o : Operands) (s : State) : Host.Outcome State Fault Refusal :=
  .next (completeRaw o (asrCompleted s.asr) (drKept o (rdasrImage o s) s) (Config.freeReg s.draws) (rdasrImage o s) s)

/-- WRASR, opcode 0x09 (R334): the last word of Op1 is written to the ASR, RA included, so completion does not set RA;
DR is destroyed. -/
def execWrasr (o : Operands) (s : State) : Host.Outcome State Fault Refusal :=
  .next (completeRaw o (Asr.ofWord (lastWordOp1 o s)) (Config.freeDr s.draws) (Config.freeReg s.draws)
    (Config.freeImage s.draws) s)

/-- DR after LDR: the three words, raw (R335). In peripheral mode a memory Op3, which LDR does not use, is read from
DR and so leaves it indeterminate (spec/41_operation_model.md R225; log 42). -/
def ldrDr (o : Operands) (s : State) : Triple :=
  match o.op3 with
  | .mem _ => if s.modeLock = .peripheral then Config.freeImage s.draws else tripleOp1 o s
  | .reg _ _ => tripleOp1 o s
  | .none => tripleOp1 o s

/-- LDR, opcode 0x18 (R335). -/
def execLdr (o : Operands) (s : State) : Host.Outcome State Fault Refusal :=
  .next (completeRaw o (asrCompleted s.asr) (ldrDr o s) (Config.freeReg s.draws) (Config.freeImage s.draws) s)

end Sys2Proof.Machine
end

