-- ==== Sys2Proof/Machine/Misc.lean ====
section
/-! DEFINITION. EROF, NOP and the unassigned opcodes (spec/47_miscellaneous.md). -/

namespace Sys2Proof.Machine

/-- The words EROF delivers: DR, raw, to a triple word; unspecified for another shape (R390, D35; log 28). -/
def erofImage (o : Operands) (s : State) : Triple :=
  match o.op3 with
  | .mem .three => s.dr
  | .mem .one => Config.freeImage s.draws
  | .mem .two => Config.freeImage s.draws
  | .reg _ _ => Config.freeImage s.draws
  | .none => Config.freeImage s.draws

/-- EROF, opcode 0x14 (R390): DR and every ASR bit but RA stay. -/
def execErof (o : Operands) (s : State) : Host.Outcome State Fault Refusal :=
  .next (completeRaw o (asrCompleted s.asr) (drKept o (erofImage o s) s) (Config.freeReg s.draws) (erofImage o s) s)

/-- DR after a NOP: unchanged, but the image of a memory destination it should not have is in DR like any other
(R391, spec/20_memory.md R112; log 42). -/
def nopDr (o : Operands) (s : State) : Triple :=
  match o.op3 with
  | .mem _ => Config.freeImage s.draws
  | .reg _ _ => s.dr
  | .none => s.dr

/-- No operation (R391): completion and nothing else; operands it should not have were fetched and a destination it
should not have is written with indeterminate content (spec/41_operation_model.md R225). -/
def noOperation (o : Operands) (s : State) : State :=
  completeRaw o (asrCompleted s.asr) (nopDr o s) (Config.freeReg s.draws) (Config.freeImage s.draws) s

/-- NOP, opcode 0x13 (R391). -/
def execNop (o : Operands) (s : State) : Host.Outcome State Fault Refusal := .next (noOperation o s)

/-- Unassigned opcode 0x00 (R393). -/
def execReserved00 (o : Operands) (s : State) : Host.Outcome State Fault Refusal := .next (noOperation o s)

/-- Unassigned opcode 0x01 (R393). -/
def execReserved01 (o : Operands) (s : State) : Host.Outcome State Fault Refusal := .next (noOperation o s)

/-- Unassigned opcode 0x15 (R393). -/
def execReserved15 (o : Operands) (s : State) : Host.Outcome State Fault Refusal := .next (noOperation o s)

/-- Unassigned opcode 0x16 (R393). -/
def execReserved16 (o : Operands) (s : State) : Host.Outcome State Fault Refusal := .next (noOperation o s)

/-- Unassigned opcode 0x19 (R393). -/
def execReserved19 (o : Operands) (s : State) : Host.Outcome State Fault Refusal := .next (noOperation o s)

end Sys2Proof.Machine
end

