-- ==== Sys2Proof/Machine/Trig.lean ====
section
/-! DEFINITION. The transcendental instructions SIN, COS, ATAN, PI (spec/46_transcendental.md).

SIN, COS and ATAN are not correctly rounded (R371): the internal result is the unknown function `Config.trigResult`,
held to the error bound of R371. What is computed here is an enclosure of the function's value, which only decides
whether a result is within that bound (log 32). -/

namespace Sys2Proof.Machine

/-! ### Pi (R375) -/

/-- The first 256 significant bits of pi, whose last one has weight `2^-254` (PRESUMED: the digits are not in the
manual; log 40). -/
def piMantissa : Nat := 0xC90FDAA22168C234C4C6628B80DC1CD129024E088A67CC74020BBEA63B139B22

/-- The real number pi: more bits follow. -/
def piExact : Exact := ⟨false, piMantissa, -254, true⟩

/-- PI: the rounded constant, always inexact (R375). -/
def piOperation (o : Operands) (s : State) : OpResult :=
  deliverFinished o s (finish s.asr (destPrec o s) (roundMode o s) true piExact)

/-! ### Enclosures of the functions -/

/-- The functions of R371. -/
inductive TrigFn where
  | sin
  | cos
  | atan
deriving DecidableEq, Repr

/-- The number `Config.trigResult` knows the function by. -/
def trigNumber : TrigFn → Nat
  | .sin => 0
  | .cos => 1
  | .atan => 2

/-- Fraction bits of the fixed-point series. -/
def seriesBits : Nat := 192

/-- More units of `2^-192` than all the truncations of one series and its dropped terms can add up to. -/
def seriesSlack : Nat := 4096

/-- The square of the argument in units of `2^-192`. -/
def squareUnits (x : Exact) : Nat := scale (x.mant * x.mant) (2 * x.exp + seriesBits)

/-- `term - term*t/((d+1)(d+2)) + ...`: the alternating series of the sine (`d = 1`) and the cosine (`d = 0`). -/
def circularSeries (t : Nat) : Nat → Nat → Int → Int
  | 0, _, _ => 0
  | k + 1, d, term => term - circularSeries t k (d + 2) (term * t / 2 ^ seriesBits / ((d + 1) * (d + 2) : Nat))

/-- `term + term*y*2n/(2n+1) + ...`: Euler's series of the arc tangent. -/
def eulerSeries (y : Nat) : Nat → Nat → Nat → Nat
  | 0, _, _ => 0
  | k + 1, n, term => term + eulerSeries y k (n + 1) (term * y / 2 ^ seriesBits * (2 * n) / (2 * n + 1))

/-- `sin(x)/x`, `cos(x)` or `atan(x)/x` in units of `2^-192`, within `seriesSlack`. -/
def seriesUnits (fn : TrigFn) (x : Exact) : Nat :=
  let t := squareUnits x
  match fn with
  | .sin => (circularSeries t 32 1 (2 ^ seriesBits)).toNat
  | .cos => (circularSeries t 32 0 (2 ^ seriesBits)).toNat
  | .atan =>
    let y := t * 2 ^ seriesBits / (2 ^ seriesBits + t)
    (2 ^ seriesBits - y) * eulerSeries y 200 1 (2 ^ seriesBits) / 2 ^ seriesBits

/-- Lower and upper end around `sin(x)/x`, `cos(x)` or `atan(x)/x` in units of `2^-192`. All are above `2^-92` (a cosine
is at least `2^-64`) and below 1. -/
def seriesEnds (c : Nat) : Nat × Nat :=
  let lower := min (max (c - seriesSlack) (2 ^ 100)) (2 ^ seriesBits - 1)
  (lower, max (min (c + seriesSlack) (2 ^ seriesBits)) (lower + 1))

/-- An open interval around the magnitude of the function's value: lower and upper end in units of `2^e`. A sine is
below 1. -/
def trigEnclosure (fn : TrigFn) (x : Exact) : Nat × Nat × Int :=
  let lower := (seriesEnds (seriesUnits fn x)).1
  let upper := (seriesEnds (seriesUnits fn x)).2
  match fn with
  | .sin =>
    let one := 2 ^ (seriesBits - x.exp).toNat
    (min (x.mant * lower) (one - 1), min (x.mant * upper) one, x.exp - seriesBits)
  | .cos => (lower, upper, -seriesBits)
  | .atan => (x.mant * lower, x.mant * upper, x.exp - seriesBits)

/-! ### The error bound (R371) -/

/-- The precision the error bound is measured in. -/
def boundPrec : Prec → Prec
  | .single => .single
  | .double => .double
  | .extended => .double

/-- How many units in the last place the error may be. -/
def boundUlps : RoundMode → Nat
  | .nearest => 1
  | .towardPlus => 2
  | .towardMinus => 2
  | .towardZero => 2

/-- The exponent of one unit in the last place of a magnitude whose leading bit has weight `2^top`. -/
def boundUnit (p : Prec) (top : Int) : Int := max top (precEmin (boundPrec p)) - precBits (boundPrec p) + 1

/-- The sign of the function's value: the argument's for the odd functions. -/
def trigSign (fn : TrigFn) (x : Exact) : Bool :=
  match fn with
  | .sin => x.neg
  | .cos => false
  | .atan => x.neg

/-- `m * 2^e` in units of `2^g`, for `g` not above `e`. -/
def inUnits (m e g : Int) : Int := m * (2 ^ (e - g).toNat : Nat)

/-- Is `m * 2^e` within the error bound of the function's value, at most 1 for SIN and COS, and not negative for COS?
(R371) -/
def trigWithin (fn : TrigFn) (x : Exact) (p : Prec) (rc : RoundMode) (m e : Int) : Bool :=
  let v := trigEnclosure fn x
  let unit := boundUnit p ((v.1.log2 : Int) + v.2.2)
  let g := min (min e v.2.2) (min unit 0)
  let r := inUnits (if trigSign fn x then -m else m) e g
  let slack := inUnits (boundUlps rc) unit g
  let one := inUnits 1 0 g
  decide (r - slack < inUnits v.2.1 v.2.2 g) && decide (inUnits v.1 v.2.2 g < r + slack)
    && (match fn with
        | .sin => decide (r ≤ one) && decide (-one ≤ r)
        | .cos => decide (0 ≤ r) && decide (r ≤ one)
        | .atan => true)

/-- Is a delivered result within the error bound? An infinity never is. -/
def datumWithin (fn : TrigFn) (x : Exact) (p : Prec) (rc : RoundMode) : Datum → Bool
  | .nan _ _ _ => false
  | .generatedNan => false
  | .infinity _ => false
  | .zero _ => trigWithin fn x p rc 0 0
  | .finite neg sig lsb => trigWithin fn x p rc (if neg then -(sig : Int) else sig) lsb

/-- The exception masks cleared. -/
def masksCleared (a : Asr) : Asr := { a with im := false, om := false, um := false, qm := false, pm := false }

/-- What `Finish` delivers of an internal result when nothing is signalled. -/
def maskedResult (s : State) (p : Prec) (rc : RoundMode) (z : Exact) : Datum :=
  (finish (masksCleared s.asr) p rc true z).value

/-- The unknown internal result for the argument `a`. Where it is 0 the sign of the zero is open too: no sentence
gives it (R371; log 32). -/
def drawnResult (fn : TrigFn) (a : Extended) (p : Prec) (rc : RoundMode) : Exact :=
  let m := (Config.trigResult (trigNumber fn) a p rc).1
  let e := (Config.trigResult (trigNumber fn) a p rc).2
  if m = 0 then ⟨Config.trigZeroSign (trigNumber fn) a p rc, 0, e, false⟩ else Exact.ofInt m e

/-- An internal result that is always within the bound: the lower end of the enclosure. -/
def enclosedResult (fn : TrigFn) (x : Exact) : Exact :=
  let v := trigEnclosure fn x
  ⟨trigSign fn x, v.1, v.2.2, true⟩

/-- The internal result: the unknown one where the bound of R371 admits what it delivers (log 32). -/
def internalResult (fn : TrigFn) (a : Extended) (p : Prec) (rc : RoundMode) (s : State) : Exact :=
  if datumWithin fn (extValue a) p rc (maskedResult s p rc (drawnResult fn a p rc)) then drawnResult fn a p rc
  else enclosedResult fn (extValue a)

/-! ### The operations -/

/-- Is the magnitude of a finite operand above pi/2? (R373: the comparison is with the real number.) -/
def aboveHalfPi (x : Exact) : Bool := decide (piMantissa < scale x.mant (x.exp + 255))

/-- Is the magnitude of a finite nonzero operand above 1? -/
def aboveOne (x : Exact) : Bool := decide (0 < x.top) || (decide (x.top = 0) && decide (x.mant ≠ 2 ^ x.mant.log2))

/-- Is the operand outside the range the function accepts? (R372 to R374) -/
def trigOutside (fn : TrigFn) (x : Exact) : Bool :=
  match fn with
  | .sin => aboveHalfPi x
  | .cos => aboveHalfPi x
  | .atan => aboveOne x

/-- A zero operand: the same signed zero, or exactly +1.0 for COS (action 11, R373). -/
def trigOfZero (fn : TrigFn) (o : Operands) (s : State) (a : Extended) : OpResult :=
  match fn with
  | .sin => deliverDatum o s (.zero (extSign a))
  | .cos => deliverDatum o s (.finite false 1 0)
  | .atan => deliverDatum o s (.zero (extSign a))

/-- A valid nonzero operand: `Finish` of the internal result, always inexact (R371). -/
def trigOfNumber (fn : TrigFn) (o : Operands) (s : State) (a : Extended) : OpResult :=
  deliverFinished o s
    (finish s.asr (destPrec o s) (roundMode o s) true (internalResult fn a (destPrec o s) (roundMode o s) s))

/-- SIN, COS and ATAN (R372 to R374). The information of an invalid operand that is no trapping NaN is unspecified
(spec/41_operation_model.md R251). -/
def trigOperation (fn : TrigFn) (o : Operands) (s : State) (a : Extended) : OpResult :=
  match classify a with
  | .trappingNan => invalidOperation o s (.operand a)
  | .quietNan => deliverOperand o s a
  | .infinity => invalidOperation o s .unspecified
  | .zero => trigOfZero fn o s a
  | .unnormZero => trigOfZero fn o s a
  | .normal =>
    if trigOutside fn (extValue a) then invalidOperation o s .unspecified else trigOfNumber fn o s a

/-- SIN, opcode 0x1C (R374). -/
def execSin (o : Operands) (s : State) : Host.Outcome State Fault Refusal :=
  runOperation o true (trigOperation .sin o s (source1 o s)) s

/-- COS, opcode 0x1D (R373). -/
def execCos (o : Operands) (s : State) : Host.Outcome State Fault Refusal :=
  runOperation o true (trigOperation .cos o s (source1 o s)) s

/-- ATAN, opcode 0x1E (R372). -/
def execAtan (o : Operands) (s : State) : Host.Outcome State Fault Refusal :=
  runOperation o true (trigOperation .atan o s (source1 o s)) s

/-- PI, opcode 0x1F (R375). -/
def execPi (o : Operands) (s : State) : Host.Outcome State Fault Refusal := runOperation o true (piOperation o s) s

end Sys2Proof.Machine
end

