-- ==== Sys2Proof/Machine/Dispatch.lean ====
section
/-! DEFINITION. The meaning of every instruction, one arm per constructor (spec/30_encoding.md R150). -/

namespace Sys2Proof.Machine

/-- An operation whose operand words have arrived runs to its end. -/
def exec (i : Instr) (s : State) : Host.Outcome State Fault Refusal :=
  match i with
  | .reserved00 o => Sys2Proof.Machine.execReserved00 o s
  | .reserved01 o => Sys2Proof.Machine.execReserved01 o s
  | .add o => Sys2Proof.Machine.execAdd o s
  | .sub o => Sys2Proof.Machine.execSub o s
  | .div o => Sys2Proof.Machine.execDiv o s
  | .rem o => Sys2Proof.Machine.execRem o s
  | .mul o => Sys2Proof.Machine.execMul o s
  | .move o => Sys2Proof.Machine.execMove o s
  | .rdasr o => Sys2Proof.Machine.execRdasr o s
  | .wrasr o => Sys2Proof.Machine.execWrasr o s
  | .cmp o => Sys2Proof.Machine.execCmp o s
  | .cmpe o => Sys2Proof.Machine.execCmpe o s
  | .abs o => Sys2Proof.Machine.execAbs o s
  | .sqrt o => Sys2Proof.Machine.execSqrt o s
  | .rtoi o => Sys2Proof.Machine.execRtoi o s
  | .ftoi o => Sys2Proof.Machine.execFtoi o s
  | .itof o => Sys2Proof.Machine.execItof o s
  | .dtof o => Sys2Proof.Machine.execDtof o s
  | .ftod o => Sys2Proof.Machine.execFtod o s
  | .nop o => Sys2Proof.Machine.execNop o s
  | .erof o => Sys2Proof.Machine.execErof o s
  | .reserved15 o => Sys2Proof.Machine.execReserved15 o s
  | .reserved16 o => Sys2Proof.Machine.execReserved16 o s
  | .neg o => Sys2Proof.Machine.execNeg o s
  | .ldr o => Sys2Proof.Machine.execLdr o s
  | .reserved19 o => Sys2Proof.Machine.execReserved19 o s
  | .cmps o => Sys2Proof.Machine.execCmps o s
  | .cmpes o => Sys2Proof.Machine.execCmpes o s
  | .sin o => Sys2Proof.Machine.execSin o s
  | .cos o => Sys2Proof.Machine.execCos o s
  | .atan o => Sys2Proof.Machine.execAtan o s
  | .pi o => Sys2Proof.Machine.execPi o s

end Sys2Proof.Machine
end

