-- ==== Sys2Proof/Machine/Bus.lean ====
section
/-! DEFINITION. What the MAU does on each bus event (spec/20_memory.md R85 to R133, spec/60_exceptions.md R430 to R445,
spec/70_reset_and_hazards.md R471), and when an operation whose operand words have arrived runs (R97, R109). -/

namespace Sys2Proof.Machine

/-! ### The command in progress -/

/-- The instruction of the command word in CR: the MAU's only fetch (spec/20_memory.md R129). -/
def currentInstr (s : State) : Instr := decode s.cr

/-- Is the MAU performing an operation? -/
def isExecuting (s : State) : Bool := s.phase == .pExecuting || s.phase == .cExecuting

/-- `wf_restart` (spec/10_state.md R56, spec/60_exceptions.md R433): a coprocessor command that is not exempt while WF is
set. -/
def isRestart (s : State) : Bool := decide (s.modeLock = .coprocessor) && s.asr.wf && !(currentInstr s).exempt

/-- Have the words of every memory source arrived? (spec/20_memory.md R77) -/
def operandsReady (s : State) : Bool :=
  s.op1In.length == (currentInstr s).operands.op1.words && s.op2In.length == (currentInstr s).operands.op2.words

/-- The words DR holds, when the destination is in memory: the result of a restart (spec/60_exceptions.md R433). -/
def restartPending (o : Operands) (dr : Triple) : Pending :=
  match o.op3 with
  | .mem _ => .words dr
  | .reg _ _ => .nothing
  | .none => .nothing

/-- The end of a restarted operation, which is not executed: RA is set, DONE# asserted, nothing else of the ASR, DR or
the registers changes (spec/60_exceptions.md R433, D43; log 36). -/
def completeRestart (s : State) : State :=
  { s with
    asr := { s.asr with ra := true }
    phase := .cDone
    op1In := []
    op2In := []
    done := true
    pendingException := false
    pending := restartPending (currentInstr s).operands s.dr
    bus := .idle }

/-- The operation in progress runs to its end (spec/20_memory.md R97, R109). -/
def runCurrent (s : State) : Host.Outcome State Fault Refusal :=
  if operandsReady s then
    if isRestart s then .next (completeRestart s) else exec (currentInstr s) s
  else .fault .operandWordsMissing

/-! ### Operations cut short (D40; log 33) -/

/-- The ASR that the operation in progress would leave. -/
def completedAsr (s : State) : Asr :=
  if isRestart s then s.asr
  else
    match exec (currentInstr s) s with
    | .next t => t.asr
    | .fault _ => s.asr
    | .refused _ => s.asr

/-- The bit the operation would have written, if it already had. -/
def mixBit (wrote : Word) (k : Nat) (new old : Bool) : Bool := if wrote.getLsbD k then new else old

/-- Flags, PR and sticky bits are each still old or already new (spec/70_reset_and_hazards.md R471, R484). -/
def mixFlags (wrote : Word) (new old : Asr) : Asr :=
  { old with
    n := mixBit wrote 21 new.n old.n
    z := mixBit wrote 20 new.z old.z
    io := mixBit wrote 19 new.io old.io
    ps := mixBit wrote 18 new.ps old.ps
    uo := mixBit wrote 16 new.uo old.uo
    is := mixBit wrote 9 new.is old.is
    os := mixBit wrote 8 new.os old.os
    us := mixBit wrote 7 new.us old.us
    qs := mixBit wrote 6 new.qs old.qs
    pr := mixBit wrote 5 new.pr old.pr }

/-- The same with ECP and CSC (spec/60_exceptions.md R441). -/
def mixAll (wrote : Word) (new old : Asr) : Asr :=
  { mixFlags wrote new old with
    ecp := mixBit wrote 25 new.ecp old.ecp
    csc := mixBit wrote 17 new.csc old.csc }

/-- The ASR left when a new command, a broadcast or a reset ends the transaction in progress: only an operation that had
begun may have touched it. -/
def asrCutShort (s : State) : Asr :=
  if isExecuting s then mixFlags (Config.cutShortWrote s.draws) (completedAsr s) s.asr else s.asr

/-- The ASR left by an interrupt-acknowledge abort but for RA (R441). -/
def asrAborted (s : State) : Asr := mixAll (Config.cutShortWrote s.draws) (completedAsr s) s.asr

/-! ### Answering an access -/

/-- The MAU's answer to an access; what it drives lasts for this access only (spec/10_state.md R53). An access other
than a repeated status fetch ends the retry window (spec/20_memory.md R110; log 14). -/
def respond (out : BusOut) (s : State) : State := { s with bus := out, statusRetry := none, draws := s.draws + 1 }

/-- No transaction is in progress, no latch holds a word and nothing is pending (spec/70_reset_and_hazards.md R472). -/
def abandon (s : State) : State :=
  { s with phase := .quiescent, op1In := [], op2In := [], done := false, pendingException := false, pending := .nothing }

/-- The phase a command word starts in (spec/20_memory.md R94, R107). -/
def startPhase (mode : Mode) (n : Nat) : Phase :=
  match mode with
  | .peripheral => if n = 0 then .pExecuting else .pAwaitOperands n
  | .coprocessor => if n = 0 then .cExecuting else .cAwaitOperands n

/-- A command word is accepted: it ends what was in progress, goes to CR and clears RA; PIREQ# is not affected
(spec/20_memory.md R94, R107). -/
def startCommand (mode : Mode) (w : Word) (s : State) : State :=
  { abandon s with
    asr := { asrCutShort s with ra := false }
    cr := w
    modeLock := mode
    phase := startPhase mode (decode w).operands.wordsIn }

/-- An operand word goes to Op1's latch until it is full, then to Op2's (spec/20_memory.md R76, R96). -/
def latchWord (w : Word) (s : State) : State :=
  if s.op1In.length < (currentInstr s).operands.op1.words then { s with op1In := s.op1In ++ [w] }
  else { s with op2In := s.op2In ++ [w] }

/-! ### Peripheral mode -/

/-- DTACK# and, for a read, a word. -/
def peripheralAnswer (data : Option Word) : BusOut := ⟨false, true, false, data⟩

/-- The answer to a peripheral access during a coprocessor transaction: whether it terminates is a parameter, a word
read is indeterminate (spec/20_memory.md R118; log 8). -/
def ignoredAnswer (data : Option Word) : BusOut :=
  ⟨false, Config.periphAccessDuringCoprocTerminates, false,
    if Config.periphAccessDuringCoprocTerminates then data else none⟩

/-- The word of an object in the quiescent state (spec/20_memory.md R88, R90). -/
def objectWord (obj : BitVec 3) (s : State) : Word :=
  match obj.toNat with
  | 4 => tripleWord s.dr 0
  | 5 => tripleWord s.dr 1
  | 6 => tripleWord s.dr 2
  | 7 => Config.freeBusWord s.draws
  | _ => s.asr.toWord

/-- The ASR while an operation executes, WRASR included: of what a read shows only RA is promised, and no claim may rest
on any other stored bit (spec/20_memory.md R97, R127), so all the others are free (DESIGN CHOICE, log 33). -/
def executingAsr (s : State) : Asr := { Asr.ofWord (Config.freeBusWord s.draws) with ra := s.asr.ra }

/-- The ASR word and indeterminate words of a transaction in progress (spec/20_memory.md R90). -/
def busyWord (obj : BitVec 3) (s : State) : Word :=
  if 4 ≤ obj.toNat then Config.freeBusWord s.draws
  else if isExecuting s then (executingAsr s).toWord
  else s.asr.toWord

/-- `PeriphRead(obj)`: no MAU state changes (spec/20_memory.md R90). -/
def periphRead (obj : BitVec 3) (s : State) : State :=
  match s.phase with
  | .quiescent => respond (peripheralAnswer (some (objectWord obj s))) s
  | .pAwaitOperands _ => respond (peripheralAnswer (some (busyWord obj s))) s
  | .pExecuting => respond (peripheralAnswer (some (busyWord obj s))) s
  | .cAwaitOperands _ => respond (ignoredAnswer (some (Config.freeBusWord s.draws))) s
  | .cExecuting => respond (ignoredAnswer (some (Config.freeBusWord s.draws))) s
  | .cDone => respond (ignoredAnswer (some (Config.freeBusWord s.draws))) s
  | .cAwaitWrites _ => respond (ignoredAnswer (some (Config.freeBusWord s.draws))) s

/-- A write in the quiescent state (spec/20_memory.md R91; DR: D11, log 11). -/
def quiescentWrite (obj : BitVec 3) (w : Word) (s : State) : State :=
  if obj = 7 then startCommand .peripheral w s
  else if 4 ≤ obj.toNat then { s with dr := Config.freeDr s.draws }
  else { s with asr := Asr.ofWord w }

/-- An operand word of a peripheral transaction; DR becomes unspecified (spec/20_memory.md R96, spec/10_state.md R51,
D12; log 11). -/
def periphOperand (w : Word) (k : Nat) (s : State) : State :=
  { latchWord w s with
    dr := Config.freeDr s.draws
    phase := if k ≤ 1 then .pExecuting else .pAwaitOperands (k - 1) }

/-- `PeriphWrite(obj, w)` (spec/20_memory.md R91, R94, R96). A surplus operand word is not refused: it meets the phase it
comes in like any other write (spec/70_reset_and_hazards.md R481; DESIGN CHOICE, log 47). -/
def periphWrite (obj : BitVec 3) (w : Word) (s : State) : State :=
  match s.phase with
  | .quiescent => respond (peripheralAnswer none) (quiescentWrite obj w s)
  | .pAwaitOperands k =>
    respond (peripheralAnswer none) (if obj = 7 then startCommand .peripheral w s else periphOperand w k s)
  | .pExecuting => respond (peripheralAnswer none) (if obj = 7 then startCommand .peripheral w s else s)
  | .cAwaitOperands _ => respond (ignoredAnswer none) s
  | .cExecuting => respond (ignoredAnswer none) s
  | .cDone => respond (ignoredAnswer none) s
  | .cAwaitWrites _ => respond (ignoredAnswer none) s

/-- `PIAck`: PIREQ# is negated, nothing else (spec/20_memory.md R100). -/
def piAck (s : State) : State := { s with pireq := false, bus := .idle }

/-! ### Coprocessor mode -/

/-- `Broadcast(w, ok)` (spec/20_memory.md R106, R107, R114): whatever is in progress is aborted; a foreign ID gets no
answer; a word with a bus exception is ignored: CR stays (DESIGN CHOICE, log 46) and SRDY# is driven (log 43). -/
def broadcast (w : Word) (ok : Bool) (s : State) : State :=
  if w.extractLsb' 24 8 ≠ 0 then respond .idle { abandon s with asr := asrCutShort s }
  else if ok then respond ⟨true, false, false, none⟩ (startCommand .coprocessor w s)
  else respond ⟨true, false, false, none⟩ { abandon s with asr := asrCutShort s }

/-- Is this DSIZE code a word? (spec/20_memory.md R73) -/
def isWord (dsize : BitVec 3) : Bool := dsize == 0b100

/-- A coprocessor operand word is counted (spec/20_memory.md R108). -/
def coprocOperand (w : Word) (k : Nat) (s : State) : State :=
  { latchWord w s with phase := if k ≤ 1 then .cExecuting else .cAwaitOperands (k - 1) }

/-- FAULT# on a non-word access (spec/20_memory.md R125). -/
def sizeFault : BusOut := ⟨false, false, true, none⟩

/-- The word a data fetch supplies, if it is counted at all: of a non-word access with FE = 0 that is the parameter
`fe0_nonword_behaviour` (spec/20_memory.md R126; log 16). -/
def fetchedWord (w : Word) (dsize : BitVec 3) (s : State) : Option Word :=
  if isWord dsize then some w
  else
    match Config.fe0NonwordBehaviour with
    | .wordAccess => some w
    | .undefinedWord => some (Config.freeNonWord s.draws)
    | .ignored => none

/-- An operand word is latched and counted, if the fetch supplies one. -/
def acceptFetch (word : Option Word) (k : Nat) (s : State) : State :=
  match word with
  | some v => coprocOperand v k s
  | none => s

/-- `DataFetch(w, dsize, ok)` when a word is awaited: a non-word access with FE = 1 is faulted and ends the transaction
(spec/20_memory.md R108, R115, R125, D19; log 13). -/
def awaitedFetch (w : Word) (dsize : BitVec 3) (ok : Bool) (k : Nat) (s : State) : State :=
  if !isWord dsize && s.asr.fe then
    respond sizeFault { abandon s with asr := { s.asr with uw := true } }
  else if ok then
    respond .idle (acceptFetch (fetchedWord w dsize s) k s)
  else respond .idle s

/-- `DataFetch` in every phase; one that is not expected does nothing (spec/20_memory.md R119, D18; log 15). -/
def dataFetch (w : Word) (dsize : BitVec 3) (ok : Bool) (s : State) : State :=
  match s.phase with
  | .cAwaitOperands k => awaitedFetch w dsize ok k s
  | .quiescent => respond .idle s
  | .pAwaitOperands _ => respond .idle s
  | .pExecuting => respond .idle s
  | .cExecuting => respond .idle s
  | .cDone => respond .idle s
  | .cAwaitWrites _ => respond .idle s

/-- The word of a status fetch: the ASR, with UO in bit 18 after a compare (spec/20_memory.md R110, spec/10_state.md
R34), but as it stands after a restart (spec/60_exceptions.md R433). -/
def statusWord (s : State) : Word :=
  if (currentInstr s).isCompare && !isRestart s then { s.asr with ps := s.asr.uo }.toWord else s.asr.toWord

/-- WF at the fault-free end of an operation that is not exempt (spec/60_exceptions.md R434). -/
def clearWf (s : State) : Asr := { s.asr with wf := s.asr.wf && (currentInstr s).exempt }

/-- The end of the status fetch: a faulted one ends the transaction, a register destination is written now, result words
are then awaited (spec/20_memory.md R110, R111, R113). -/
def afterStatus (s : State) : State :=
  if s.pendingException then abandon s
  else
    match s.pending with
    | .nothing => { abandon s with asr := clearWf s }
    | .register r v => { abandon s with asr := clearWf s, regs := s.regs.set r v }
    | .words _ => { s with done := false, phase := .cAwaitWrites (currentInstr s).operands.op3.words }

/-- SRDY#, the status word, and FAULT# when an exception is pending (spec/20_memory.md R110). -/
def statusAnswer (word : Word) (fault : Bool) : BusOut := ⟨true, false, fault, some word⟩

/-- A status fetch while DONE# is asserted. -/
def firstStatus (s : State) : State :=
  { respond (statusAnswer (statusWord s) s.pendingException) (afterStatus s) with
    statusRetry := some (statusWord s, s.pendingException) }

/-- A status fetch at another time: a retry gets the same answer, another gets none, and nothing changes
(spec/20_memory.md R110, R119, D17, D18; log 14). -/
def laterStatus (s : State) : State :=
  match s.statusRetry with
  | some (word, fault) => { s with bus := statusAnswer word fault }
  | none => respond .idle s

/-- `StatusFetch` in every phase. -/
def statusFetch (s : State) : State :=
  match s.phase with
  | .cDone => firstStatus s
  | .quiescent => laterStatus s
  | .pAwaitOperands _ => laterStatus s
  | .pExecuting => laterStatus s
  | .cAwaitOperands _ => laterStatus s
  | .cExecuting => laterStatus s
  | .cAwaitWrites _ => laterStatus s

/-- `ResultOut(n_out - k)`: the word driven when `k` are still to be written (spec/20_memory.md R103, R112). -/
def resultWord (k : Nat) (s : State) : Word :=
  match s.pending with
  | .words image => tripleWord image ((currentInstr s).operands.op3.words - k)
  | .nothing => Config.freeBusWord s.draws
  | .register _ _ => Config.freeBusWord s.draws

/-- A successful data write: the last one ends the transaction and clears WF (spec/20_memory.md R112, R113). -/
def wordWritten (k : Nat) (s : State) : State :=
  if k ≤ 1 then { abandon s with asr := clearWf s } else { s with phase := .cAwaitWrites (k - 1) }

/-- The word driven on a data write, if the access is taken as one: of a non-word access with FE = 0 that is the
parameter `fe0_nonword_behaviour` (spec/20_memory.md R126; log 16). -/
def drivenWord (dsize : BitVec 3) (k : Nat) (s : State) : Option Word :=
  if isWord dsize then some (resultWord k s)
  else
    match Config.fe0NonwordBehaviour with
    | .wordAccess => some (resultWord k s)
    | .undefinedWord => some (Config.freeNonWord s.draws)
    | .ignored => none

/-- What a data write leaves: a failed one sets WF with FE = 1 (spec/20_memory.md R116). One that drives no word changes
nothing. -/
def acceptWrite (word : Option Word) (ok : Bool) (k : Nat) (s : State) : State :=
  match word with
  | some _ => if ok then wordWritten k s else { s with asr := { s.asr with wf := s.asr.wf || s.asr.fe } }
  | none => s

/-- `DataWrite(dsize, ok)` when a result word is to be written: a non-word access with FE = 1 is faulted and sets UW and
WF, a failed one sets WF with FE = 1, and both leave the word to be written again (spec/20_memory.md R112, R116,
R125). -/
def awaitedWrite (dsize : BitVec 3) (ok : Bool) (k : Nat) (s : State) : State :=
  if !isWord dsize && s.asr.fe then
    respond sizeFault { s with asr := { s.asr with uw := true, wf := true } }
  else
    respond ⟨false, false, false, drivenWord dsize k s⟩ (acceptWrite (drivenWord dsize k s) ok k s)

/-- `DataWrite` in every phase; one that is not expected does nothing (spec/20_memory.md R119, D18; log 15). -/
def dataWrite (dsize : BitVec 3) (ok : Bool) (s : State) : State :=
  match s.phase with
  | .cAwaitWrites k => awaitedWrite dsize ok k s
  | .quiescent => respond .idle s
  | .pAwaitOperands _ => respond .idle s
  | .pExecuting => respond .idle s
  | .cAwaitOperands _ => respond .idle s
  | .cExecuting => respond .idle s
  | .cDone => respond .idle s

/-! ### Interrupt acknowledge and reset -/

/-- The abort of a coprocessor transaction before DONE# (spec/60_exceptions.md R441): DR becomes unspecified if the
operation had begun. A restart executes nothing and so leaves DR and the ASR alone (R433; log 36). -/
def abortTransaction (s : State) : State :=
  { abandon s with
    asr := { asrAborted s with ra := true }
    dr := if isExecuting s && !isRestart s then Config.freeDr s.draws else s.dr }

/-- The abort of a finished transaction (spec/60_exceptions.md R443, D44; log 37). -/
def abortResult (s : State) : State := { abandon s with asr := { s.asr with ra := true } }

/-- `IntAck` after a coprocessor command (spec/60_exceptions.md R441, R443, R444). -/
def coprocIntAck (s : State) : State :=
  match s.phase with
  | .cAwaitOperands _ => abortTransaction s
  | .cExecuting => abortTransaction s
  | .cDone => abortResult s
  | .cAwaitWrites _ => abortResult s
  | .quiescent => { s with asr := { s.asr with ra := s.asr.ra || Config.freeRa s.draws } }
  | .pAwaitOperands _ => s
  | .pExecuting => s

/-- `IntAck`: ignored from a peripheral command on until the next transaction starts (spec/60_exceptions.md R440). -/
def intAck (s : State) : State :=
  respond .idle (match s.modeLock with
    | .peripheral => s
    | .coprocessor => coprocIntAck s)

/-- `Reset` (spec/70_reset_and_hazards.md R471): the hidden state of R473, the registers as they are but for what an
operation cut short may have written. -/
def resetMachine (s : State) : State :=
  respond .idle { abandon s with asr := asrCutShort s, pireq := false, modeLock := .coprocessor }

/-! ### One event -/

/-- Time passes: an operation in progress completes (spec/70_reset_and_hazards.md R500; log 3). -/
def elapse (s : State) : Host.Outcome State Fault Refusal :=
  if isExecuting s then runCurrent s else .next { s with bus := .idle }

/-- The reaction to one event (spec/20_memory.md R74). -/
def react (e : BusEvent) (s : State) : Host.Outcome State Fault Refusal :=
  match e with
  | .reset => .next (resetMachine s)
  | .periphRead obj => .next (periphRead obj s)
  | .periphWrite obj w => .next (periphWrite obj w s)
  | .broadcast w ok => .next (broadcast w ok s)
  | .dataFetch w dsize ok => .next (dataFetch w dsize ok s)
  | .statusFetch => .next (statusFetch s)
  | .dataWrite dsize ok => .next (dataWrite dsize ok s)
  | .intAck => .next (intAck s)
  | .piAck => .next (piAck s)
  | .elapse => elapse s
  | .highImpedance => .refused .highImpedanceTest
  | .shortReset => .refused .shortResetPulse
  | .wrongDirection => .refused .unexpectedReadWriteLevel

/-- The next event of the inbox happens; without one, time passes (log 2, log 3). -/
def nextEvent (s : State) : Host.Outcome State Fault Refusal :=
  match s.inbox with
  | [] => elapse s
  | e :: rest => react e { s with inbox := rest }

/-! ### Placing a program word -/

/-- Zero words for a source operand. -/
def zeroWords (src : Src) : List Word := List.replicate src.words 0#32

/-- The state a peripheral-mode bus master leaves when it has written the command word and operand words of zeros: the
next step runs the operation (spec/20_memory.md R94 to R97; log 2). RA and DR stay as they are, where the accesses it
stands for would have cleared RA and, with operand words, left DR unspecified (DESIGN CHOICE, log 2). -/
def placeCommand (s : State) (w : Word) : State :=
  { s with
    cr := w
    phase := .pExecuting
    modeLock := .peripheral
    op1In := zeroWords (decode w).operands.op1
    op2In := zeroWords (decode w).operands.op2
    inbox := [] }

end Sys2Proof.Machine
end

