-- ==== Sys2Proof/Machine/Step.lean ====
section
/-! DEFINITION. One step of the machine: the reaction to one bus event, or the operation in progress. -/

namespace Sys2Proof.Machine

/-- One step (spec/20_memory.md R74, R97, R109). -/
def step (s : State) : Host.Outcome State Fault Refusal := nextEvent s

/-- `s` with the command word `w` (of `nbits` bits, the bits above them 0) and its operand words, all zero, where the
next step runs them (log 2). -/
def State.withFetchWord (s : State) (nbits w : Nat) : State :=
  placeCommand s (BitVec.ofNat 32 (w % 2 ^ nbits))

end Sys2Proof.Machine
end

