-- ==== Sys2Proof/Safety.lean ====
section
/-! DEFINITION. The terms the claims use: what a coherent state of the protocol is (spec/10_state.md R50 to R55), what a
safe step is, and what an operation that sets CSC yields. -/

namespace Sys2Proof.Machine

/-- The operand latches are empty. -/
def latchesEmpty (s : State) : Prop := s.op1In = [] ∧ s.op2In = []

/-- `k` of the words the command names are still to come, Op1's before Op2's (spec/20_memory.md R76, R77). -/
def awaiting (k : Nat) (s : State) : Prop :=
  0 < k ∧ s.op1In.length ≤ (currentInstr s).operands.op1.words
    ∧ s.op2In.length ≤ (currentInstr s).operands.op2.words
    ∧ (s.op2In = [] ∨ s.op1In.length = (currentInstr s).operands.op1.words)
    ∧ s.op1In.length + s.op2In.length + k = (currentInstr s).operands.wordsIn

/-- No finished operation waits for its status fetch or its data writes. -/
def noResult (s : State) : Prop := s.done = false ∧ s.pendingException = false ∧ s.pending = .nothing

/-- The command was accepted from a broadcast: the ID field is the MAU's (spec/20_memory.md R106). -/
def fromBroadcast (s : State) : Prop := s.modeLock = .coprocessor ∧ s.cr.extractLsb' 24 8 = 0

/-- What is pending belongs to the destination of the command (spec/10_state.md R55). -/
def pendingFits (s : State) : Prop :=
  match s.pending with
  | .nothing => True
  | .register r _ => ∃ p, (currentInstr s).operands.op3 = .reg r p
  | .words _ => ∃ n, (currentInstr s).operands.op3 = .mem n

/-- The hidden state fits the phase. -/
def phaseCoherent (s : State) : Prop :=
  match s.phase with
  | .quiescent => latchesEmpty s ∧ noResult s
  | .pAwaitOperands k => s.modeLock = .peripheral ∧ awaiting k s ∧ noResult s
  | .pExecuting => s.modeLock = .peripheral ∧ operandsReady s = true ∧ noResult s
  | .cAwaitOperands k => fromBroadcast s ∧ awaiting k s ∧ noResult s
  | .cExecuting => fromBroadcast s ∧ operandsReady s = true ∧ noResult s
  | .cDone => fromBroadcast s ∧ latchesEmpty s ∧ s.done = true ∧ pendingFits s
      ∧ (s.pendingException = true → s.pending = .nothing)
  | .cAwaitWrites k => fromBroadcast s ∧ latchesEmpty s ∧ s.done = false ∧ s.pendingException = false
      ∧ (∃ image, s.pending = .words image) ∧ 0 < k ∧ k ≤ (currentInstr s).operands.op3.words

/-- A status fetch can be a retry only after a status fetch (spec/20_memory.md R110). -/
def retryCoherent (s : State) : Prop :=
  s.statusRetry = none ∨ s.phase = .quiescent ∨ ∃ k, s.phase = .cAwaitWrites k

/-- The invariant of the protocol. -/
def State.Inv (s : State) : Prop := phaseCoherent s ∧ retryCoherent s

/-- A step is safe when it does not stop with a fault. -/
def safeStep (s : State) : Prop := ∀ f, step s ≠ .fault f

/-- Is the result of a memory destination kept in DR in coprocessor mode? (spec/60_exceptions.md R435) -/
def keepsDr : Instr → Bool
  | .reserved00 _ => true
  | .reserved01 _ => true
  | .add _ => true
  | .sub _ => true
  | .div _ => true
  | .rem _ => true
  | .mul _ => true
  | .move _ => true
  | .rdasr _ => true
  | .wrasr _ => true
  | .cmp _ => true
  | .cmpe _ => true
  | .abs _ => true
  | .sqrt _ => true
  | .rtoi _ => true
  | .ftoi _ => true
  | .itof _ => true
  | .dtof _ => true
  | .ftod _ => false
  | .nop _ => true
  | .erof _ => true
  | .reserved15 _ => true
  | .reserved16 _ => true
  | .neg _ => true
  | .ldr _ => true
  | .reserved19 _ => true
  | .cmps _ => true
  | .cmpes _ => true
  | .sin _ => true
  | .cos _ => true
  | .atan _ => true
  | .pi _ => true

/-- What an operation that sets CSC yields; none for the exempt ones. -/
def operationOf (i : Instr) (s : State) : Option OpResult :=
  match i with
  | .reserved00 _ => none
  | .reserved01 _ => none
  | .add o => some (addOperation o s (source1 o s) (source2 o s))
  | .sub o => some (subOperation o s (source1 o s) (source2 o s))
  | .div o => some (divOperation o s (source1 o s) (source2 o s))
  | .rem o => some (remOperation o s (source1 o s) (source2 o s))
  | .mul o => some (mulOperation o s (source1 o s) (source2 o s))
  | .move o => some (moveOperation o s (source1 o s) (source1 o s))
  | .rdasr _ => none
  | .wrasr _ => none
  | .cmp o => some (compareOperation false compareFlags o s)
  | .cmpe o => some (compareOperation true compareFlags o s)
  | .abs o => some (absOperation o s)
  | .sqrt o => some (sqrtOperation o s (source1 o s))
  | .rtoi o => some (rtoiOperation o s (source1 o s))
  | .ftoi o => some (ftoiOperation o s (source1 o s))
  | .itof o => some (itofOperation o s)
  | .dtof o => some (dtofOperation o s)
  | .ftod o => some (ftodOperation o s (source1 o s))
  | .nop _ => none
  | .erof _ => none
  | .reserved15 _ => none
  | .reserved16 _ => none
  | .neg o => some (negOperation o s)
  | .ldr _ => none
  | .reserved19 _ => none
  | .cmps o => some (compareOperation false swappedFlags o s)
  | .cmpes o => some (compareOperation true swappedFlags o s)
  | .sin o => some (trigOperation .sin o s (source1 o s))
  | .cos o => some (trigOperation .cos o s (source1 o s))
  | .atan o => some (trigOperation .atan o s (source1 o s))
  | .pi o => some (piOperation o s)

end Sys2Proof.Machine
end

