-- ==== Sys2Proof/Certificates/Slice0/Obligations.lean ====
section
/-! DEFINITION. The statements for the provers, and the real-number and frame vocabulary they are written in. Free values
(`Config`) stay unconstrained in every one of them. -/

namespace Sys2Proof.Machine

/-! ### Real numbers -/

/-- The magnitude `mant * 2^exp`. -/
noncomputable def magnitude (z : Exact) : ℝ := z.mant * (2 : ℝ) ^ z.exp

/-- `z` stands for the real number `x`: exactly, or, when `sticky` is set, as its leading bits (at least 69). -/
def standsFor (z : Exact) (x : ℝ) : Prop :=
  (if z.sticky then 2 ^ 68 ≤ z.mant ∧ magnitude z < |x| ∧ |x| < (z.mant + 1) * (2 : ℝ) ^ z.exp else |x| = magnitude z)
    ∧ (x ≠ 0 → (z.neg = true ↔ x < 0))

/-- A sign as a factor. -/
noncomputable def signFactor (neg : Bool) : ℝ := if neg then -1 else 1

/-- `val(v)` of a finite double-extended pattern (spec/40_data_formats.md R196). -/
noncomputable def extReal (v : Extended) : ℝ :=
  signFactor (v.getLsbD 79) * ((v.extractLsb' 0 64).toNat / (2 : ℝ) ^ (63 : ℤ))
    * (2 : ℝ) ^ ((max (v.extractLsb' 64 15).toNat 1 : ℤ) - 16383)

/-- The value of a finite single-precision word (spec/40_data_formats.md R183). -/
noncomputable def singleReal (w : Word) : ℝ :=
  let e := (w.extractLsb' 23 8).toNat
  let f : ℝ := (w.extractLsb' 0 23).toNat / (2 : ℝ) ^ (23 : ℤ)
  signFactor (w.getLsbD 31) * (if e = 0 then (2 : ℝ) ^ (-126 : ℤ) * f else (2 : ℝ) ^ ((e : ℤ) - 127) * (1 + f))

/-- The value of a finite double-precision operand (spec/40_data_formats.md R186). -/
noncomputable def doubleReal (d : BitVec 64) : ℝ :=
  let e := (d.extractLsb' 52 11).toNat
  let f : ℝ := (d.extractLsb' 0 52).toNat / (2 : ℝ) ^ (52 : ℤ)
  signFactor (d.getLsbD 63) * (if e = 0 then (2 : ℝ) ^ (-1022 : ℤ) * f else (2 : ℝ) ^ ((e : ℤ) - 1023) * (1 + f))

/-- The value of a finite result. -/
noncomputable def datumReal : Datum → ℝ
  | .finite neg sig lsb => signFactor neg * sig * (2 : ℝ) ^ lsb
  | .zero _ => 0
  | .infinity _ => 0
  | .generatedNan => 0
  | .nan _ _ _ => 0

/-- `n * 2^q` is the rounding of `x` to a multiple of `2^q` in the mode `rc` (spec/41_operation_model.md R240). -/
def roundsTo (rc : RoundMode) (q : ℤ) (x : ℝ) (n : ℤ) : Prop :=
  match rc with
  | .nearest => |n - x / (2 : ℝ) ^ q| ≤ 1 / 2 ∧ (|n - x / (2 : ℝ) ^ q| = 1 / 2 → Even n)
  | .towardPlus => x / (2 : ℝ) ^ q ≤ n ∧ (n : ℝ) < x / (2 : ℝ) ^ q + 1
  | .towardMinus => (n : ℝ) ≤ x / (2 : ℝ) ^ q ∧ x / (2 : ℝ) ^ q < n + 1
  | .towardZero => |(n : ℝ)| ≤ |x / (2 : ℝ) ^ q| ∧ |x / (2 : ℝ) ^ q| < |(n : ℝ)| + 1 ∧ 0 ≤ n * (x / (2 : ℝ) ^ q)

/-- The digit `D_k` of a decimal container: bits `4k+7` to `4k+4` (spec/40_data_formats.md R200). -/
def decimalDigit (t : Triple) (k : ℕ) : ℕ := (t.extractLsb' (4 * k + 4) 4).toNat

/-- The function of an instruction of spec/46_transcendental.md R371. -/
noncomputable def trigReal : TrigFn → ℝ → ℝ
  | .sin => Real.sin
  | .cos => Real.cos
  | .atan => Real.arctan

/-- The arguments the function accepts (spec/46_transcendental.md R372 to R374). -/
noncomputable def trigLimit : TrigFn → ℝ
  | .sin => Real.pi / 2
  | .cos => Real.pi / 2
  | .atan => 1

/-- `x` and the position of its leading bit: `2^E <= |x| < 2^(E+1)`. -/
def leadingBit (x : ℝ) (E : ℤ) : Prop := (2 : ℝ) ^ E ≤ |x| ∧ |x| < (2 : ℝ) ^ (E + 1)

/-- A finite operand that is not zero. -/
def isNumber (v : Extended) : Prop := classify v = .normal

/-- An operand that is an infinity. -/
def isInfinity (v : Extended) : Prop := classify v = .infinity

/-- An operand on the extended real line. -/
noncomputable def extLine (v : Extended) : EReal :=
  if classify v = .infinity then (if extSign v then ⊥ else ⊤) else (extReal v : EReal)

/-! ### How an instruction ends -/

/-- The instruction completes with `Finish` of the real number `x` (spec/41_operation_model.md R246), in its destination
precision and rounding mode. -/
def finishesWith (i : Instr) (s : State) (x : ℝ) : Prop :=
  ∃ z, standsFor z x ∧ exec i s = .next (completeOperation i.operands true
    (deliverFinished i.operands s (finish s.asr (destPrec i.operands s) (roundMode i.operands s) false z)) s)

/-- The instruction delivers the datum `d` without any exception or sticky bit. -/
def deliversOnly (i : Instr) (s : State) (d : Datum) : Prop :=
  exec i s = .next (deliverResult i.operands true (deliverDatum i.operands s d) s)

/-- The instruction completes with an invalid operation whose handler finds `info` in DR. -/
def invalidWith (i : Instr) (s : State) (info : TrapInfo) : Prop :=
  exec i s = .next (completeOperation i.operands true (invalidOperation i.operands s info) s)

/-- `image` holds the words of the result, left-justified: those the bus master reads from DR in peripheral mode
(spec/20_memory.md R99), those the data writes will drive in coprocessor mode (R103, R112). -/
def deliversWords (mode : Mode) (t : State) (image : Triple) : Prop :=
  (mode = .peripheral → t.dr = image) ∧ (mode = .coprocessor → t.pending = .words image)

/-- The register `q` gets `v`: at once in peripheral mode (spec/20_memory.md R98), at the status fetch in coprocessor mode
(R111). -/
def deliversRegister (mode : Mode) (t : State) (q : Reg) (v : Extended) : Prop :=
  (mode = .peripheral → t.regs.get q = v) ∧ (mode = .coprocessor → t.pending = .register q v)

/-- Is the number `v` copied bit for bit to precision `p`, where `Finish` of its value would give another pattern? A
double-extended destination keeps exponent field 0 with J = 1 (spec/60_exceptions.md R450; log 19). -/
def keepsPattern (p : Prec) (v : Extended) : Prop := p = .extended ∧ extExponent v = 0 ∧ extJ v = true

/-- The instruction completes without an exception or a sticky bit and delivers the bits of the number `v`. -/
def deliversPattern (i : Instr) (s : State) (v : Extended) : Prop :=
  ∃ t, exec i s = .next t ∧ t.pendingException = false ∧ t.asr.csc = true ∧ t.asr.ra = true
    ∧ t.asr.n = extSign v ∧ t.asr.z = false ∧ t.asr.io = false ∧ t.asr.pr = false ∧ t.asr.uo = false
    ∧ t.asr.is = s.asr.is ∧ t.asr.os = s.asr.os ∧ t.asr.us = s.asr.us ∧ t.asr.qs = s.asr.qs ∧ t.asr.ps = s.asr.ps
    ∧ (∀ q p, i.operands.op3 = .reg q p → deliversRegister s.modeLock t q v)
    ∧ (i.operands.op3 = .mem .three → deliversWords s.modeLock t (0#16 ++ v))

/-- The instruction delivers the number `v`, whose real value is `x`. -/
def copiesNumber (i : Instr) (s : State) (v : Extended) (x : ℝ) : Prop :=
  (keepsPattern (destPrec i.operands s) v → deliversPattern i s v)
    ∧ (¬ keepsPattern (destPrec i.operands s) v → finishesWith i s x)

/-- The instruction delivers the operand `v`, which is no trapping NaN, as if by MOVE (spec/41_operation_model.md R255): a
number is finished or copied, an infinity and a zero keep their sign, a nontrapping NaN keeps sign, J and fraction. -/
def copies (i : Instr) (s : State) (v : Extended) : Prop :=
  (isNumber v → copiesNumber i s v (extReal v))
    ∧ (isInfinity v → deliversOnly i s (.infinity (extSign v)))
    ∧ (isZero v = true → deliversOnly i s (.zero (extSign v)))
    ∧ (classify v = .quietNan → deliversOnly i s (.nan (extSign v) (extJ v) (extFraction v)))

/-- No exception is enabled: the five masks and NTNC are 0. -/
def nothingEnabled (a : Asr) : Prop :=
  a.im = false ∧ a.om = false ∧ a.um = false ∧ a.qm = false ∧ a.pm = false ∧ a.ntnc = false

/-! ### Frames -/

/-- The bits only software writes: masks, RC, NTNC, FE (spec/41_operation_model.md R264). -/
def sameControls (a b : Asr) : Prop :=
  b.ntnc = a.ntnc ∧ b.rc = a.rc ∧ b.im = a.im ∧ b.om = a.om ∧ b.um = a.um ∧ b.qm = a.qm ∧ b.pm = a.pm ∧ b.fe = a.fe

/-- No sticky bit is cleared (spec/10_state.md R30). -/
def stickyKept (a b : Asr) : Prop :=
  (a.is = true → b.is = true) ∧ (a.os = true → b.os = true) ∧ (a.us = true → b.us = true)
    ∧ (a.qs = true → b.qs = true) ∧ (a.ps = true → b.ps = true)

/-- The sticky bits but IS are the same. -/
def otherStickySame (a b : Asr) : Prop := b.os = a.os ∧ b.us = a.us ∧ b.qs = a.qs ∧ b.ps = a.ps

/-- A step in which software writes the ASR: a peripheral write to objects 0-3 in the quiescent state, or the end of
WRASR. -/
def softwareWrite (s : State) : Prop :=
  (s.phase = .quiescent ∧ ∃ obj w rest, s.inbox = .periphWrite obj w :: rest ∧ obj.toNat < 4)
    ∨ ((∃ o, currentInstr s = .wrasr o) ∧ isExecuting s = true ∧ (s.inbox = [] ∨ ∃ rest, s.inbox = .elapse :: rest))

/-- A step that cuts WRASR short: a reset, a command or an interrupt acknowledge while it executes, or an interrupt
acknowledge while it awaits its words. -/
def cutsWrasrShort (s : State) : Prop :=
  (∃ o, currentInstr s = .wrasr o) ∧ ∃ rest,
    (isExecuting s = true ∧ (s.inbox = .reset :: rest ∨ s.inbox = .intAck :: rest
      ∨ (∃ w, s.inbox = .periphWrite 7 w :: rest) ∨ ∃ w ok, s.inbox = .broadcast w ok :: rest))
    ∨ ((∃ k, s.phase = .cAwaitOperands k) ∧ s.inbox = .intAck :: rest)

/-- A coprocessor transaction is in progress. -/
def inCoprocessor (s : State) : Prop :=
  (∃ k, s.phase = .cAwaitOperands k) ∨ s.phase = .cExecuting ∨ s.phase = .cDone ∨ ∃ k, s.phase = .cAwaitWrites k

/-- The opcodes that act as NOP. -/
def actsAsNop (i : Instr) (o : Operands) : Prop :=
  i = .nop o ∨ i = .reserved00 o ∨ i = .reserved01 o ∨ i = .reserved15 o ∨ i = .reserved16 o ∨ i = .reserved19 o

/-- Time passes in this step: no access comes, so an operation in progress completes (log 3). -/
def timePasses (s : State) : Prop := s.inbox = [] ∨ ∃ rest, s.inbox = .elapse :: rest

/-- The instructions that leave DR intact when they complete (spec/60_exceptions.md R421): RDASR, EROF and NOP, but for
a memory destination whose words are to be read from DR (log 42). -/
def leavesDr (mode : Mode) (i : Instr) : Prop :=
  ∃ o, ((i = .rdasr o ∨ i = .erof o) ∧ (mode = .coprocessor ∨ ∀ n, o.op3 ≠ .mem n))
    ∨ (i = .erof o ∧ o.op3 = .mem .three) ∨ (actsAsNop i o ∧ ∀ n, o.op3 ≠ .mem n)

/-- A step that may write DR: an operation that does not leave it completes or is aborted by an interrupt acknowledge, or
a peripheral write names a DR object in the quiescent state or brings an operand word. -/
def mayWriteDr (s : State) : Prop :=
  (isExecuting s = true ∧ isRestart s = false ∧ timePasses s ∧ ¬ leavesDr s.modeLock (decode s.cr))
    ∨ (s.phase = .cExecuting ∧ isRestart s = false ∧ s.modeLock = .coprocessor ∧ ∃ rest, s.inbox = .intAck :: rest)
    ∨ (∃ obj w rest, s.inbox = .periphWrite obj w :: rest
        ∧ ((s.phase = .quiescent ∧ 4 ≤ obj.toNat ∧ obj ≠ 7) ∨ ((∃ k, s.phase = .pAwaitOperands k) ∧ obj ≠ 7)))

/-- `s` after an access that changes no MAU state: the event is gone, `out` was the answer. -/
def onlyAnswered (s : State) (rest : List BusEvent) (out : BusOut) : State :=
  { s with inbox := rest, bus := out, statusRetry := none, draws := s.draws + 1 }

/-- DR holds an operand in the fault format: sign in bit 81, exponent in bits 80-64, significand below
(spec/60_exceptions.md R415). -/
def drHolds (t : State) (v : Extended) : Prop :=
  t.dr.getLsbD 81 = v.getLsbD 79 ∧ (t.dr.extractLsb' 64 17).toNat = (v.extractLsb' 64 15).toNat
    ∧ t.dr.extractLsb' 0 64 = v.extractLsb' 0 64

/-- L, G, R, S of the magnitude of `x` when the last kept bit has weight `2^q`: that bit, the two below it, and whether
anything is left below those (spec/41_operation_model.md R247; which discarded bit is which: log 40). -/
def guardBits (q : ℤ) (x : ℝ) (lgrs : BitVec 4) : Prop :=
  (lgrs.getLsbD 3 = true ↔ Odd ⌊|x| / (2 : ℝ) ^ q⌋)
    ∧ (lgrs.getLsbD 2 = true ↔ Odd ⌊|x| / (2 : ℝ) ^ (q - 1)⌋)
    ∧ (lgrs.getLsbD 1 = true ↔ Odd ⌊|x| / (2 : ℝ) ^ (q - 2)⌋)
    ∧ (lgrs.getLsbD 0 = true ↔ (⌊|x| / (2 : ℝ) ^ (q - 2)⌋ : ℝ) ≠ |x| / (2 : ℝ) ^ (q - 2))

/-- The bits of a fault image (spec/60_exceptions.md R415): L, G, R, S where they are known, the sign, the 17-bit exponent
with the bias 16383, and the significand. -/
def faultBits (dr : Triple) (lgrs : Option (BitVec 4)) (neg : Bool) (exponent : ℤ) (significand : ℕ) : Prop :=
  (∀ b, lgrs = some b → dr.extractLsb' 92 4 = b) ∧ dr.getLsbD 81 = neg
    ∧ dr.extractLsb' 64 17 = BitVec.ofInt 17 (exponent + 16383) ∧ (dr.extractLsb' 0 64).toNat = significand

/-- The fault image of a double-extended pattern. -/
def faultBitsOf (dr : Triple) (lgrs : Option (BitVec 4)) (v : Extended) : Prop :=
  faultBits dr lgrs (v.getLsbD 79) ((v.extractLsb' 64 15).toNat - 16383) (v.extractLsb' 0 64).toNat

/-- Is the inexact image narrow: a single or double result in peripheral mode? (spec/60_exceptions.md R420) -/
def narrowImage (mode : Mode) (p : Prec) : Prop := mode = .peripheral ∧ p ≠ .extended

/-- DR after a signalled inexact result (spec/60_exceptions.md R419, R420). A narrow image holds in its low 64 bits the
significand, implicit bit included, whose last bit has the weight of one unit at the result's exponent; the fraction of an
infinity is 0. A number lost to gradual underflow is unnormalized with the exponent `Emin - 1`. -/
def inexactFound (mode : Mode) (dr : Triple) (p : Prec) (gradual : Bool) (lgrs : Option (BitVec 4)) : Datum → Prop
  | .finite neg sig lsb =>
    (¬ narrowImage mode p → gradual = false → faultBitsOf dr lgrs (encodeExtended (.finite neg sig lsb)))
    ∧ (¬ narrowImage mode p → gradual = true → lsb = precLeast p → 0 < sig → sig < 2 ^ (precBits p - 1) →
        faultBits dr lgrs neg (precEmin p - 1) (sig * 2 ^ (64 - precBits p)))
    ∧ (narrowImage mode p → (gradual = true → (sig.log2 : ℤ) + lsb < precEmin p) → 0 < sig →
        (∃ (m : ℕ) (e : ℤ), (sig : ℝ) * (2 : ℝ) ^ lsb = m * (2 : ℝ) ^ e ∧ m < 2 ^ precBits p ∧ precLeast p ≤ e) →
        ((dr.extractLsb' 0 64).toNat : ℝ) * (2 : ℝ) ^ (max ((sig.log2 : ℤ) + lsb) (precEmin p) - precBits p + 1)
          = sig * (2 : ℝ) ^ lsb)
  | .zero neg =>
    (¬ narrowImage mode p → faultBitsOf dr lgrs (encodeExtended (.zero neg)))
    ∧ (narrowImage mode p → dr.extractLsb' 0 64 = 0)
  | .infinity neg =>
    (¬ narrowImage mode p → faultBitsOf dr lgrs (encodeExtended (.infinity neg)))
    ∧ (narrowImage mode p → (dr.extractLsb' 0 64).toNat < 2 ^ precBits p
        ∧ (dr.extractLsb' 0 64).toNat % 2 ^ (precBits p - 1) = 0)
  | .generatedNan => True
  | .nan _ _ _ => True

/-- What the handler finds in DR (spec/60_exceptions.md R415 to R420). -/
def handlerFinds (mode : Mode) (dr : Triple) : TrapInfo → Prop
  | .unspecified => True
  | .operand v => faultBitsOf dr none v
  | .rounded neg top sig64 lgrs => sig64 < 2 ^ 64 → faultBits dr (some lgrs) neg top sig64
  | .inexact r p gradual lgrs => inexactFound mode dr p gradual lgrs r

/-- An invalid operation has been signalled: the destination, register or memory, is not written. -/
def invalidTaken (s t : State) : Prop :=
  t.regs = s.regs ∧ t.pending = .nothing ∧ t.asr.is = true ∧ t.asr.ecp = true ∧ t.asr.csc = true ∧ t.asr.ra = true
    ∧ t.asr.io = false ∧ t.asr.pr = false ∧ t.asr.uo = false ∧ otherStickySame s.asr t.asr

/-- The instructions of one floating-point source that treat a trapping NaN by action 1. -/
def oneOperand (i : Instr) (o : Operands) : Prop :=
  i = .move o ∨ i = .abs o ∨ i = .neg o ∨ i = .sqrt o ∨ i = .rtoi o ∨ i = .sin o ∨ i = .cos o ∨ i = .atan o

/-- ADD, DIV, REM, MUL. -/
def twoOperands (i : Instr) (o : Operands) : Prop := i = .add o ∨ i = .div o ∨ i = .rem o ∨ i = .mul o

/-- SIN and COS, with the function the error bound is for. -/
def sineOrCosine (fn : TrigFn) (i : Instr) (o : Operands) : Prop :=
  (fn = .sin ∧ i = .sin o) ∨ (fn = .cos ∧ i = .cos o)

/-- The operation is inexact whatever the outcome (spec/46_transcendental.md R371), and what it delivers when nothing is
signalled is within the error bound, as `datumWithin` decides it with an enclosure of the function's value (log 32);
that includes 0 <= COS <= 1 and |SIN| <= 1. -/
def finishesWithin (fn : TrigFn) (i : Instr) (o : Operands) (s : State) : Prop :=
  ∃ z, exec i s = .next (completeOperation o true
      (deliverFinished o s (finish s.asr (destPrec o s) (roundMode o s) true z)) s)
    ∧ ((finish s.asr (destPrec o s) (roundMode o s) true z).trap = none →
        (finish s.asr (destPrec o s) (roundMode o s) true z).ps = true
        ∧ datumWithin fn (extValue (source1 o s)) (destPrec o s) (roundMode o s)
            (finish s.asr (destPrec o s) (roundMode o s) true z).value = true
        ∧ (fn = .cos → 0 ≤ datumReal (finish s.asr (destPrec o s) (roundMode o s) true z).value)
        ∧ (fn = .sin ∨ fn = .cos → |datumReal (finish s.asr (destPrec o s) (roundMode o s) true z).value| ≤ 1))

end Sys2Proof.Machine

open Sys2Proof Sys2Proof.Machine

/-! ### Encoding -/

/-- O1 (spec/30_encoding.md R140, R145, R146, R150): the encoding drops no bit of an instruction. -/
def Obligations.DecodeOfEncode : Prop := ∀ i : Instr, decode (encode i) = i

/-- O2 (R140, R142, R144): a command word whose ID, reserved bits and ineffective fields are 0 is the encoding of what it
decodes to. -/
def Obligations.EncodeOfDecode : Prop :=
  ∀ w : Word, w.extractLsb' 21 11 = 0 →
    (w.getLsbD 9 = true → w.getLsbD 20 = false) →
    (w.getLsbD 6 = true → w.getLsbD 19 = false) →
    (w.getLsbD 3 = true ∧ w.getLsbD 2 = true → w.getLsbD 18 = false) →
    (w.getLsbD 17 = false → w.extractLsb' 15 2 = 0) →
    encode (decode w) = w

/-- O3: worked command words of the spec (R165, R166; R335, R375, R391). -/
def Obligations.DecodedWords : Prop :=
  decode 0x00000816 = .add ⟨.reg .f0, .reg .f1, .reg .f2 .double, none⟩
    ∧ decode 0x00000A4C = .add ⟨.mem .one, .mem .one, .mem .one, none⟩
    ∧ decode 0x00101CFE = .move ⟨.reg .f5, .none, .mem .three, none⟩
    ∧ decode 0x0000637F = .ldr ⟨.mem .three, .none, .none, none⟩
    ∧ decode 0x00004FFF = .nop ⟨.none, .none, .none, none⟩
    ∧ decode 0x0003FFFC = .pi ⟨.none, .none, .mem .one, some .towardZero⟩

/-! ### The step, the invariant, reset -/

/-- O4 (spec/20_memory.md R97, R109): when the operand words have arrived and it is no restart, a step runs the
instruction of CR, as does the first step after `withFetchWord` (that an operation completes when no access comes is
the model's choice, log 3; the placing of the word, log 2). -/
def Obligations.StepRunsDecoded : Prop :=
  (∀ s : State, isExecuting s = true → operandsReady s = true → isRestart s = false →
    (s.inbox = [] → step s = exec (decode s.cr) s)
    ∧ ∀ rest, s.inbox = .elapse :: rest → step s = exec (decode s.cr) { s with inbox := rest })
  ∧ ∀ (s : State) (w : Word), step (s.withFetchWord 32 w.toNat) = exec (decode w) (s.withFetchWord 32 w.toNat)

/-- O5 (spec/10_state.md R50 to R55): the protocol invariant is kept by every step. -/
def Obligations.InvariantKept : Prop := ∀ s t : State, s.Inv → step s = .next t → t.Inv

/-- O6: the state after reset meets the invariant. -/
def Obligations.InvariantAtReset : Prop := State.reset.Inv

/-- O7 (spec/20_memory.md R97, R109): in a state that meets the invariant no operation starts without its operand words,
so no step stops with a fault. -/
def Obligations.NoFaultUnderInvariant : Prop := ∀ s : State, s.Inv → safeStep s

/-- O8 (spec/10_state.md R27, R41, R61): what the spec gives for the state after reset. PIREQ# and `mode_lock` are the
spec's own decision D13 (log 12); nothing is said of the register contents, which are the model's choice (log 1). -/
def Obligations.ResetState : Prop :=
  State.reset.phase = .quiescent ∧ State.reset.op1In = [] ∧ State.reset.op2In = [] ∧ State.reset.pending = .nothing
    ∧ State.reset.pendingException = false ∧ State.reset.done = false ∧ State.reset.pireq = false
    ∧ State.reset.modeLock = .coprocessor ∧ State.reset.bus = ⟨false, false, false, none⟩
    ∧ State.reset.asr.toWord.extractLsb' 1 3 = 1 ∧ State.reset.asr.toWord.extractLsb' 26 5 = 0

/-- O9 (spec/70_reset_and_hazards.md R471, spec/10_state.md R60): a reset ends whatever is in progress and leaves the
registers; of the ASR only an operation cut short may have touched flags and sticky bits (PIREQ# and `mode_lock` are
the spec's decision D13, log 12; the cut-short ASR its D40, log 33). -/
def Obligations.ResetKeepsRegisters : Prop :=
  ∀ (s : State) rest, s.inbox = .reset :: rest →
    ∃ t, step s = .next t ∧ t.phase = .quiescent ∧ latchesEmpty t ∧ noResult t ∧ t.bus = ⟨false, false, false, none⟩
      ∧ t.pireq = false ∧ t.modeLock = .coprocessor
      ∧ t.regs = s.regs ∧ t.dr = s.dr ∧ t.cr = s.cr
      ∧ sameControls s.asr t.asr ∧ t.asr.ra = s.asr.ra ∧ t.asr.ecp = s.asr.ecp ∧ t.asr.csc = s.asr.csc
      ∧ t.asr.wf = s.asr.wf ∧ t.asr.uw = s.asr.uw ∧ (isExecuting s = false → t.asr = s.asr)

/-! ### The auxiliary status register -/

/-- O10 (spec/10_state.md R43, spec/20_memory.md R91): a quiescent peripheral write to objects 0-3 writes the ASR and
nothing else, and the word is read back with bits 30-26 zero and VER 001 (that UW and WF take the written value whatever
FE is, is the spec's decision D10, log 10). -/
def Obligations.AsrWrittenThenRead : Prop :=
  (∀ w : Word, (Asr.ofWord w).toWord = (w &&& 0x83FFFFF1#32) ||| 2#32)
  ∧ ∀ (s : State) obj w rest, s.phase = .quiescent → s.inbox = .periphWrite obj w :: rest → obj.toNat < 4 →
      step s = .next { onlyAnswered s rest ⟨false, true, false, none⟩ with asr := Asr.ofWord w }

/-- O11 (spec/41_operation_model.md R264, spec/10_state.md R30, R31, R38, R39): only a software write changes a mask bit,
RC, NTNC or FE; only a software write, or one that is cut short (D40, log 33), clears a sticky bit. -/
def Obligations.SoftwareOwnedBits : Prop :=
  ∀ s t : State, step s = .next t → ¬ softwareWrite s →
    sameControls s.asr t.asr ∧ (¬ cutsWrasrShort s → stickyKept s.asr t.asr)

/-- O12 (spec/10_state.md R26): FE is read and written by software, never changed by the MAU, and with FE = 0 the MAU
never sets WF or UW. -/
def Obligations.FeatureEnable : Prop :=
  (∀ (s : State) obj w rest, s.phase = .quiescent → s.inbox = .periphWrite obj w :: rest → obj.toNat < 4 →
    ∃ t, step s = .next t ∧ t.asr.fe = w.getLsbD 0)
  ∧ (∀ a : Asr, a.toWord.getLsbD 0 = a.fe)
  ∧ ∀ s t : State, step s = .next t → ¬ softwareWrite s →
      t.asr.fe = s.asr.fe
      ∧ (s.asr.fe = false → (t.asr.wf = true → s.asr.wf = true) ∧ (t.asr.uw = true → s.asr.uw = true))

/-- O13 (spec/10_state.md R35, R42, spec/41_operation_model.md R262, R264): the frame of every instruction. All complete;
an operation sets CSC unless exempt, and an exempt one other than WRASR changes no ASR bit but RA; no register other than
the destination changes, and none at all in coprocessor mode before the status fetch. -/
def Obligations.InstructionFrame : Prop :=
  ∀ (i : Instr) (s : State), ∃ t, exec i s = .next t
    ∧ (i.exempt = false → t.asr.ra = true ∧ t.asr.csc = true ∧ sameControls s.asr t.asr ∧ stickyKept s.asr t.asr
        ∧ t.asr.wf = s.asr.wf ∧ t.asr.uw = s.asr.uw)
    ∧ (i.exempt = true → (∀ o, i ≠ .wrasr o) → t.asr = { s.asr with ra := true })
    ∧ (∀ q, (∀ p, i.operands.op3 ≠ .reg q p) → t.regs.get q = s.regs.get q)
    ∧ (s.modeLock = .coprocessor → t.regs = s.regs)
    ∧ t.cr = s.cr ∧ t.modeLock = s.modeLock ∧ t.inbox = s.inbox ∧ t.statusRetry = s.statusRetry
    ∧ t.op1In = [] ∧ t.op2In = []

/-! ### Peripheral mode -/

/-- O14 (spec/20_memory.md R90, R97, R118): a peripheral read changes no MAU state; in the quiescent state it reads the
ASR and the DR words, and it is never faulted. While an operation executes an ASR object shows RA, and no other bit is
promised (log 33); bit 18 of the ASR read is the stored PS, after a compare too (the spec's decision D9, log 9). -/
def Obligations.PeripheralRead : Prop :=
  ∀ (s : State) obj rest, s.inbox = .periphRead obj :: rest →
    ∃ out, step s = .next (onlyAnswered s rest out) ∧ out.fault = false
      ∧ (s.phase = .quiescent → out.dtack = true ∧ (obj.toNat < 4 → out.data = some s.asr.toWord)
          ∧ (obj.toNat = 4 → out.data = some (s.dr.extractLsb' 64 32))
          ∧ (obj.toNat = 5 → out.data = some (s.dr.extractLsb' 32 32))
          ∧ (obj.toNat = 6 → out.data = some (s.dr.extractLsb' 0 32)))
      ∧ ((∃ k, s.phase = .pAwaitOperands k) → obj.toNat < 4 → out.dtack = true ∧ out.data = some s.asr.toWord)
      ∧ (s.phase = .pExecuting → obj.toNat < 4 →
          out.dtack = true ∧ ∃ w, out.data = some w ∧ w.getLsbD 31 = s.asr.ra)

/-- O15 (spec/20_memory.md R91, R118): while a coprocessor transaction is in progress a peripheral write changes no MAU
state; nor, though it terminates normally, does one to an object other than CR while a peripheral operation executes. -/
def Obligations.PeripheralWriteIgnored : Prop :=
  ∀ (s : State) obj w rest, s.inbox = .periphWrite obj w :: rest →
    (inCoprocessor s → ∃ out, step s = .next (onlyAnswered s rest out) ∧ out.fault = false)
    ∧ (s.phase = .pExecuting → obj ≠ 7 → step s = .next (onlyAnswered s rest ⟨false, true, false, none⟩))

/-- O16 (spec/20_memory.md R94): a peripheral write of CR ends what was in progress and starts the new command; PIREQ# is
not affected and no register is written (whatever the ID byte holds: the spec's decision D6, log 6; whatever bits 23-21
hold: its decision D22, log 18). -/
def Obligations.PeripheralStart : Prop :=
  ∀ (s : State) w rest, ¬ inCoprocessor s → s.inbox = .periphWrite 7 w :: rest →
    ∃ t, step s = .next t ∧ t.cr = w ∧ t.asr.ra = false ∧ t.modeLock = .peripheral ∧ latchesEmpty t ∧ noResult t
      ∧ t.pireq = s.pireq ∧ t.regs = s.regs ∧ sameControls s.asr t.asr
      ∧ t.phase = (if (decode w).operands.op1.words + (decode w).operands.op2.words = 0 then .pExecuting
          else .pAwaitOperands ((decode w).operands.op1.words + (decode w).operands.op2.words))

/-- O17 (spec/20_memory.md R96): an operand word, written to any object but CR, is latched, Op1's before Op2's; the ASR is
not written. -/
def Obligations.PeripheralOperandWord : Prop :=
  ∀ (s : State) k obj w rest, s.phase = .pAwaitOperands k → obj ≠ 7 → s.inbox = .periphWrite obj w :: rest →
    ∃ t, step s = .next t ∧ t.asr = s.asr ∧ t.regs = s.regs ∧ t.cr = s.cr ∧ t.modeLock = s.modeLock
      ∧ (if s.op1In.length < (decode s.cr).operands.op1.words then t.op1In = s.op1In ++ [w] ∧ t.op2In = s.op2In
          else t.op1In = s.op1In ∧ t.op2In = s.op2In ++ [w])
      ∧ (k = 1 → t.phase = .pExecuting) ∧ (1 < k → t.phase = .pAwaitOperands (k - 1))

/-- O18 (spec/60_exceptions.md R438, spec/20_memory.md R98, R100): PIREQ# is asserted only by the completion of a
peripheral operation, which leaves the MAU quiescent, and negated only by PIACK#, which changes nothing else, and by reset (reset: the spec's decision
D13, log 12; that an operation completes when no access is waiting is the model's choice, log 3). -/
def Obligations.PireqChanges : Prop :=
  (∀ (s : State) rest, s.inbox = .piAck :: rest →
    step s = .next { s with inbox := rest, pireq := false, bus := ⟨false, false, false, none⟩ })
  ∧ (∀ s t : State, s.phase = .pExecuting → s.modeLock = .peripheral → s.inbox = [] → step s = .next t →
      t.pireq = true)
  ∧ ∀ s t : State, step s = .next t →
      (s.pireq = false → t.pireq = true →
        isExecuting s = true ∧ s.modeLock = .peripheral ∧ timePasses s ∧ t.phase = .quiescent)
      ∧ (s.pireq = true → t.pireq = false → ∃ rest, s.inbox = .piAck :: rest ∨ s.inbox = .reset :: rest)

/-! ### Coprocessor mode -/

/-- O19 (spec/20_memory.md R106, R107, R114): a broadcast aborts whatever is in progress; with the MAU's ID and no bus
exception it starts the command, otherwise CR stays and the MAU is quiescent. No register is written, DR stays, and
PIREQ# is not affected (that RA stays after a foreign ID is the spec's decision D16, log 13; that CR stays after a bus
exception is the model's choice, log 46, that SRDY# answers one too, log 43, and that DR stays when an operation is cut
short, log 33). -/
def Obligations.Broadcast : Prop :=
  ∀ (s : State) w ok rest, s.inbox = .broadcast w ok :: rest →
    ∃ t, step s = .next t ∧ latchesEmpty t ∧ noResult t ∧ t.regs = s.regs ∧ t.dr = s.dr ∧ sameControls s.asr t.asr
      ∧ t.pireq = s.pireq
      ∧ (w.extractLsb' 24 8 = 0 → ok = false → t.bus = ⟨true, false, false, none⟩)
      ∧ (w.extractLsb' 24 8 ≠ 0 → t.bus = ⟨false, false, false, none⟩ ∧ t.asr.ra = s.asr.ra)
      ∧ ((w.extractLsb' 24 8 ≠ 0 ∨ ok = false) → t.phase = .quiescent ∧ t.cr = s.cr)
      ∧ (w.extractLsb' 24 8 = 0 → ok = true →
          t.bus = ⟨true, false, false, none⟩ ∧ t.cr = w ∧ t.asr.ra = false ∧ t.modeLock = .coprocessor
          ∧ t.phase = (if (decode w).operands.op1.words + (decode w).operands.op2.words = 0 then .cExecuting
              else .cAwaitOperands ((decode w).operands.op1.words + (decode w).operands.op2.words)))

/-- O20 (spec/20_memory.md R108, R115): an awaited coprocessor word is latched and counted; one with a bus exception is
not. -/
def Obligations.CoprocessorOperandWord : Prop :=
  ∀ (s : State) k w ok rest, s.phase = .cAwaitOperands k → s.inbox = .dataFetch w 0b100 ok :: rest →
    (ok = false → step s = .next (onlyAnswered s rest ⟨false, false, false, none⟩))
    ∧ (ok = true → ∃ t, step s = .next t ∧ t.asr = s.asr ∧ t.regs = s.regs ∧ t.dr = s.dr ∧ t.cr = s.cr
        ∧ (if s.op1In.length < (decode s.cr).operands.op1.words then t.op1In = s.op1In ++ [w] ∧ t.op2In = s.op2In
            else t.op1In = s.op1In ∧ t.op2In = s.op2In ++ [w])
        ∧ (k = 1 → t.phase = .cExecuting) ∧ (1 < k → t.phase = .cAwaitOperands (k - 1)))

/-- O21 (spec/20_memory.md R125, spec/60_exceptions.md R430): with FE = 1 an awaited access of a size other than a
word is faulted and sets UW; a data fetch ends the transaction without running the operation, a data write sets WF and
is awaited again (the phase and RA after it are the spec's decision D19, log 13; that the faulted data write drives no
word is the model's choice, log 43). -/
def Obligations.NonWordAccessFaulted : Prop :=
  ∀ (s : State) k dsize ok rest, s.asr.fe = true → dsize ≠ 0b100 →
    (∀ w, s.phase = .cAwaitOperands k → s.inbox = .dataFetch w dsize ok :: rest →
      ∃ t, step s = .next t ∧ t.bus = ⟨false, false, true, none⟩ ∧ t.asr = { s.asr with uw := true }
        ∧ t.phase = .quiescent ∧ t.regs = s.regs ∧ t.dr = s.dr)
    ∧ (s.phase = .cAwaitWrites k → s.inbox = .dataWrite dsize ok :: rest →
      ∃ t, step s = .next t ∧ t.bus = ⟨false, false, true, none⟩ ∧ t.asr = { s.asr with uw := true, wf := true }
        ∧ t.phase = .cAwaitWrites k ∧ t.regs = s.regs ∧ t.dr = s.dr ∧ t.pending = s.pending)

/-- O22 (spec/60_exceptions.md R431): FAULT# is asserted only on a status fetch and on a data fetch or data write of a size
other than a word with FE = 1. -/
def Obligations.FaultOutputOnlyOn : Prop :=
  ∀ s t : State, step s = .next t → t.bus.fault = true →
    (∃ rest, s.inbox = .statusFetch :: rest)
    ∨ (s.asr.fe = true ∧ ∃ dsize ok rest, dsize ≠ 0b100 ∧
        ((∃ w, s.inbox = .dataFetch w dsize ok :: rest) ∨ s.inbox = .dataWrite dsize ok :: rest))

/-- O23 (spec/20_memory.md R110, R111, R113, R119, spec/60_exceptions.md R421, R434): the status fetch after DONE# returns the
status word, faulted when an exception is pending, and leaves DR, where a handler finds the information of R421; it ends the transaction, writes a register destination, or opens the
data writes. A repeated one gets the same answer and changes nothing (the spec's decision D17, log 14), and a
coprocessor access that the phase does not expect changes nothing and is not answered (its decision D18, log 15). -/
def Obligations.StatusFetch : Prop :=
  (∀ (s : State) rest, s.phase ≠ .cDone → s.inbox = .statusFetch :: rest →
    (∀ word fault, s.statusRetry = some (word, fault) →
      step s = .next { s with inbox := rest, bus := ⟨true, false, fault, some word⟩ })
    ∧ (s.statusRetry = none → step s = .next (onlyAnswered s rest ⟨false, false, false, none⟩)))
  ∧ (∀ (s : State) w dsize ok rest, (∀ k, s.phase ≠ .cAwaitOperands k) → s.inbox = .dataFetch w dsize ok :: rest →
    step s = .next (onlyAnswered s rest ⟨false, false, false, none⟩))
  ∧ (∀ (s : State) dsize ok rest, (∀ k, s.phase ≠ .cAwaitWrites k) → s.inbox = .dataWrite dsize ok :: rest →
    step s = .next (onlyAnswered s rest ⟨false, false, false, none⟩))
  ∧ ∀ (s : State) rest, s.phase = .cDone → s.inbox = .statusFetch :: rest →
    ∃ t, step s = .next t ∧ t.bus = ⟨true, false, s.pendingException, some (statusWord s)⟩ ∧ t.done = false
      ∧ t.dr = s.dr ∧ t.statusRetry = some (statusWord s, s.pendingException)
      ∧ (s.pendingException = true → t.phase = .quiescent ∧ t.regs = s.regs ∧ t.asr = s.asr ∧ t.pending = .nothing)
      ∧ (s.pendingException = false → s.pending = .nothing → t.phase = .quiescent ∧ t.regs = s.regs)
      ∧ (∀ r v, s.pendingException = false → s.pending = .register r v →
          t.phase = .quiescent ∧ t.regs = s.regs.set r v)
      ∧ (∀ image, s.pendingException = false → s.pending = .words image →
          t.phase = .cAwaitWrites (decode s.cr).operands.op3.words ∧ t.pending = s.pending ∧ t.regs = s.regs
          ∧ t.asr = s.asr)
      ∧ (s.pendingException = false → (∀ image, s.pending ≠ .words image) →
          t.asr = { s.asr with wf := s.asr.wf && (decode s.cr).exempt })

/-- O24 (spec/10_state.md R34): bit 18 of the status word is UO after a compare; every other bit is the ASR's. -/
def Obligations.StatusWordOfCompare : Prop :=
  ∀ s : State, (isRestart s = false → (decode s.cr).isCompare = true → (statusWord s).getLsbD 18 = s.asr.uo)
    ∧ ((decode s.cr).isCompare = false → statusWord s = s.asr.toWord)
    ∧ ∀ k, k ≠ 18 → (statusWord s).getLsbD k = s.asr.toWord.getLsbD k

/-- O25 (spec/20_memory.md R112, R116, spec/60_exceptions.md R434): a data write drives the next word of the result; a
failed one is awaited again and sets WF if FE, the last successful one clears WF of an operation that is not exempt (most
significant word first: the spec's decision D5, log 5). -/
def Obligations.DataWrite : Prop :=
  ∀ (s : State) k ok rest image, s.phase = .cAwaitWrites k → s.pending = .words image →
    s.inbox = .dataWrite 0b100 ok :: rest → k ≤ (decode s.cr).operands.op3.words →
    ∃ t, step s = .next t
      ∧ t.bus = ⟨false, false, false, some (tripleWord image ((decode s.cr).operands.op3.words - k))⟩
      ∧ t.regs = s.regs ∧ t.dr = s.dr
      ∧ (ok = false → t.phase = .cAwaitWrites k ∧ t.pending = s.pending
          ∧ t.asr = { s.asr with wf := s.asr.wf || s.asr.fe })
      ∧ (ok = true → 1 < k → t.phase = .cAwaitWrites (k - 1) ∧ t.pending = s.pending ∧ t.asr = s.asr)
      ∧ (ok = true → k = 1 → t.phase = .quiescent ∧ t.pending = .nothing
          ∧ t.asr = { s.asr with wf := s.asr.wf && (decode s.cr).exempt })

/-- O26 (spec/60_exceptions.md R433, spec/10_state.md R32): a restart is not executed: RA and DONE# are set, DR
supplies the result words, and no other ASR bit, register or DR bit changes (details: the spec's decision D43, log
36; that it completes when no access comes: the model's choice, log 3). -/
def Obligations.RestartNotExecuted : Prop :=
  ∀ s : State, s.phase = .cExecuting → s.modeLock = .coprocessor → s.asr.wf = true → (decode s.cr).exempt = false →
    operandsReady s = true → s.inbox = [] →
    ∃ t, step s = .next t ∧ t.asr = { s.asr with ra := true } ∧ t.regs = s.regs ∧ t.dr = s.dr ∧ t.phase = .cDone
      ∧ t.done = true ∧ t.pendingException = false
      ∧ (∀ n, (decode s.cr).operands.op3 = .mem n → t.pending = .words s.dr)
      ∧ ((∀ n, (decode s.cr).operands.op3 ≠ .mem n) → t.pending = .nothing)

/-! ### Interrupt acknowledge -/

/-- O27 (spec/60_exceptions.md R440): after a peripheral command an interrupt acknowledge has no effect. -/
def Obligations.IntAckIgnored : Prop :=
  ∀ (s : State) rest, s.modeLock = .peripheral → s.inbox = .intAck :: rest →
    step s = .next (onlyAnswered s rest ⟨false, false, false, none⟩)

/-- O28 (spec/60_exceptions.md R441, R443, R444): before DONE# an interrupt acknowledge aborts the coprocessor
transaction: no register is written, RA is set, and each flag, sticky bit, ECP and CSC is old or as the operation would
have left it (the spec's decision D40, log 33; of a restart: the model's reading, log 36). After DONE# it discards what
is pending and only sets RA; in the quiescent state nothing but an RA of 0 may change (D44, log 37). -/
def Obligations.IntAckAborts : Prop :=
  (∀ (s : State) rest, s.modeLock = .coprocessor → (s.phase = .cDone ∨ ∃ k, s.phase = .cAwaitWrites k) →
    s.inbox = .intAck :: rest →
    ∃ t, step s = .next t ∧ t.phase = .quiescent ∧ latchesEmpty t ∧ noResult t
      ∧ t.asr = { s.asr with ra := true } ∧ t.regs = s.regs ∧ t.dr = s.dr ∧ t.cr = s.cr ∧ t.pireq = s.pireq)
  ∧ (∀ (s : State) rest, s.modeLock = .coprocessor → s.phase = .quiescent → s.inbox = .intAck :: rest →
    ∃ b, step s = .next { onlyAnswered s rest ⟨false, false, false, none⟩ with asr := { s.asr with ra := b } }
      ∧ (s.asr.ra = true → b = true))
  ∧ ∀ (s : State) rest, s.modeLock = .coprocessor → ((∃ k, s.phase = .cAwaitOperands k) ∨ s.phase = .cExecuting) →
    s.inbox = .intAck :: rest →
    ∃ t, step s = .next t ∧ t.phase = .quiescent ∧ latchesEmpty t ∧ noResult t ∧ t.asr.ra = true ∧ t.regs = s.regs
      ∧ sameControls s.asr t.asr ∧ t.asr.wf = s.asr.wf ∧ t.asr.uw = s.asr.uw
      ∧ (s.phase ≠ .cExecuting → t.dr = s.dr)
      ∧ (isRestart s = true → t.asr = { s.asr with ra := true } ∧ t.dr = s.dr)
      ∧ ∀ u, isRestart s = false → exec (decode s.cr) { s with inbox := rest } = .next u →
          (t.asr.n = s.asr.n ∨ t.asr.n = u.asr.n) ∧ (t.asr.z = s.asr.z ∨ t.asr.z = u.asr.z)
          ∧ (t.asr.io = s.asr.io ∨ t.asr.io = u.asr.io) ∧ (t.asr.uo = s.asr.uo ∨ t.asr.uo = u.asr.uo)
          ∧ (t.asr.pr = s.asr.pr ∨ t.asr.pr = u.asr.pr) ∧ (t.asr.is = s.asr.is ∨ t.asr.is = u.asr.is)
          ∧ (t.asr.os = s.asr.os ∨ t.asr.os = u.asr.os) ∧ (t.asr.us = s.asr.us ∨ t.asr.us = u.asr.us)
          ∧ (t.asr.qs = s.asr.qs ∨ t.asr.qs = u.asr.qs) ∧ (t.asr.ps = s.asr.ps ∨ t.asr.ps = u.asr.ps)
          ∧ (t.asr.ecp = s.asr.ecp ∨ t.asr.ecp = u.asr.ecp) ∧ (t.asr.csc = s.asr.csc ∨ t.asr.csc = u.asr.csc)

/-! ### Delivery and exceptions -/

/-- O29 (spec/10_state.md R23, spec/41_operation_model.md R262, R265, spec/20_memory.md R98, R111, spec/60_exceptions.md
R421): an operand register changes only as the destination of an operation, at its completion in peripheral mode or at
its status fetch in coprocessor mode. DR changes only when an operation that does not leave it completes or is aborted by
an interrupt acknowledge, and by peripheral writes of operand words or DR objects (that a reset or a new command leaves it
when it cuts an operation short is the model's choice, log 33; RDASR, EROF and NOP: log 42). -/
def Obligations.RegisterChanges : Prop :=
  (∀ s t : State, step s = .next t → t.dr ≠ s.dr → mayWriteDr s)
  ∧ ∀ (s t : State) (q : Reg), step s = .next t → t.regs.get q ≠ s.regs.get q →
    (isExecuting s = true ∧ s.modeLock = .peripheral ∧ timePasses s ∧ ∃ p, (decode s.cr).operands.op3 = .reg q p)
    ∨ (s.phase = .cDone ∧ s.pendingException = false ∧ ∃ v rest, s.pending = .register q v
        ∧ s.inbox = .statusFetch :: rest ∧ t.regs.get q = v)

/-- O30 (spec/60_exceptions.md R410, R415 to R420): taking an exception. ECP, CSC and RA are set, the destination is not
written, DR holds the information bit by bit in the fault format, or in the narrow one for an inexact single or double
result in peripheral mode (D42, log 35); peripheral mode asserts PIREQ#, coprocessor mode DONE#, with the exception
pending. -/
def Obligations.ExceptionTaken : Prop :=
  ∀ (i : Instr) (s : State) r info, operationOf i s = some r → r.trap = some info →
    ∃ t, exec i s = .next t ∧ t.asr.ecp = true ∧ t.asr.csc = true ∧ t.asr.ra = true ∧ t.regs = s.regs
      ∧ t.pending = .nothing ∧ t.dr = trapDr s.modeLock s.draws info ∧ handlerFinds s.modeLock t.dr info
      ∧ sameControls s.asr t.asr
      ∧ (s.modeLock = .peripheral → t.phase = .quiescent ∧ t.pireq = true ∧ t.pendingException = false)
      ∧ (s.modeLock = .coprocessor → t.phase = .cDone ∧ t.done = true ∧ t.pendingException = true
          ∧ t.pireq = s.pireq)

/-- O31 (spec/20_memory.md R98, R99, R109, R112, spec/41_operation_model.md R262): delivering a result. CSC and RA are
set, N and Z are the result's. Peripheral mode asserts PIREQ# and writes the register, or DR for a memory destination;
coprocessor mode asserts DONE# and leaves the register value or the words pending, the words in DR too but after FTOD
(left-justified there as in peripheral mode: the spec's decision D7, log 7). -/
def Obligations.ResultDelivered : Prop :=
  ∀ (i : Instr) (s : State) r, operationOf i s = some r → r.trap = none →
    ∃ t, exec i s = .next t ∧ t.asr.csc = true ∧ t.asr.ra = true ∧ t.asr.n = r.flags.n ∧ t.asr.z = r.flags.z
      ∧ t.pendingException = false
      ∧ (s.modeLock = .peripheral → t.phase = .quiescent ∧ t.pireq = true ∧ t.pending = .nothing
          ∧ (∀ q p, i.operands.op3 = .reg q p → t.regs = s.regs.set q r.reg)
          ∧ (∀ n, i.operands.op3 = .mem n → t.regs = s.regs ∧ t.dr = r.image))
      ∧ (s.modeLock = .coprocessor → t.phase = .cDone ∧ t.done = true ∧ t.regs = s.regs ∧ t.pireq = s.pireq
          ∧ (∀ q p, i.operands.op3 = .reg q p → t.pending = .register q r.reg)
          ∧ (∀ n, i.operands.op3 = .mem n → t.pending = .words r.image
              ∧ ((∀ o, i ≠ .ftod o) → t.dr = r.image)))

/-- O32 (spec/60_exceptions.md R407, R413, R414): with the masks and NTNC at 0 every operation that sets CSC delivers a
result and signals nothing. -/
def Obligations.NothingSignalledWhenDisabled : Prop :=
  ∀ (i : Instr) (s : State), i.exempt = false → nothingEnabled s.asr →
    ∃ r, operationOf i s = some r ∧ r.trap = none
      ∧ exec i s = .next (deliverResult i.operands (keepsDr i) r s)

/-- O33 (spec/60_exceptions.md R413): with IM = 0 and NTNC = 1 an operation does exactly what it does with IM = 1. -/
def Obligations.NtncActsAsMask : Prop :=
  ∀ (i : Instr) (s t : State), i.exempt = false → s.asr.im = false → s.asr.ntnc = true → exec i s = .next t →
    exec i { s with asr := { s.asr with im := true } } = .next { t with asr := { t.asr with im := true } }

/-- O34 (spec/41_operation_model.md R251, spec/60_exceptions.md R416): a trapping NaN operand. Signalled: the destination
is not written and DR holds Op1 if it is the trapping NaN, else Op2 (SUB: Op1 with its sign complemented, D32, log 25).
Not signalled: the generated NaN is delivered and IS set. -/
def Obligations.TrappingNan : Prop :=
  ∀ (i : Instr) (o : Operands) (s : State),
    (twoOperands i o → (classify (source1 o s) = .trappingNan ∨ classify (source2 o s) = .trappingNan) →
      (invalidEnabled s.asr = true → ∃ t, exec i s = .next t ∧ invalidTaken s t
        ∧ drHolds t (if classify (source1 o s) = .trappingNan then source1 o s else source2 o s))
      ∧ (invalidEnabled s.asr = false → exec i s =
          .next (deliverResult o true { deliverDatum o s .generatedNan with is := true } s)))
    ∧ (i = .sub o → (classify (source1 o s) = .trappingNan ∨ classify (source2 o s) = .trappingNan) →
      (invalidEnabled s.asr = true → ∃ t, exec i s = .next t ∧ invalidTaken s t
        ∧ drHolds t (if classify (source1 o s) = .trappingNan then extWithSign (!extSign (source1 o s)) (source1 o s)
            else source2 o s))
      ∧ (invalidEnabled s.asr = false → exec i s =
          .next (deliverResult o true { deliverDatum o s .generatedNan with is := true } s)))
    ∧ (oneOperand i o → classify (source1 o s) = .trappingNan →
      (invalidEnabled s.asr = true → ∃ t, exec i s = .next t ∧ invalidTaken s t ∧ drHolds t (source1 o s))
      ∧ (invalidEnabled s.asr = false → exec i s =
          .next (deliverResult o true { deliverDatum o s .generatedNan with is := true } s)))

/-- O35 (spec/42_arithmetic.md R282 to R286, R290): the operand pairs that are invalid without a trapping NaN, with Op2
for the handler, and SQRT of a negative number or infinity. -/
def Obligations.InvalidOperands : Prop :=
  ∀ (o : Operands) (s : State),
    (isInfinity (source1 o s) → isInfinity (source2 o s) →
      (extSign (source1 o s) ≠ extSign (source2 o s) → invalidWith (.add o) s (.operand (source2 o s)))
      ∧ (extSign (source1 o s) = extSign (source2 o s) → invalidWith (.sub o) s (.operand (source2 o s)))
      ∧ invalidWith (.div o) s (.operand (source2 o s)))
    ∧ (isInfinity (source1 o s) → isZero (source2 o s) = true → invalidWith (.mul o) s (.operand (source2 o s)))
    ∧ (isZero (source1 o s) = true → isInfinity (source2 o s) → invalidWith (.mul o) s (.operand (source2 o s)))
    ∧ (isZero (source1 o s) = true → isZero (source2 o s) = true → invalidWith (.div o) s (.operand (source2 o s)))
    ∧ (isNan (source1 o s) = false → isInfinity (source2 o s) → invalidWith (.rem o) s (.operand (source2 o s)))
    ∧ (isZero (source1 o s) = true → isNan (source2 o s) = false → invalidWith (.rem o) s (.operand (source2 o s)))
    ∧ ((isInfinity (source1 o s) ∨ isNumber (source1 o s)) → extSign (source1 o s) = true →
        invalidWith (.sqrt o) s .unspecified)

/-- O36 (spec/41_operation_model.md R255 to R257, spec/42_arithmetic.md R282 to R286): the special cases of ADD, SUB, MUL,
DIV and REM that are valid: a nontrapping NaN is copied, Op1's when both are (SUB: with Op1's sign complemented, D32, log
25), and exact infinities, zeros and copies of an operand (the sign of a zero sum: the spec's decision D29, log 22; an
unnormalized zero counts as zero: D25, log 19; a copied number keeps exponent field 0: the model's reading, log 19). -/
def Obligations.SpecialCaseResults : Prop :=
  ∀ (o : Operands) (s : State),
    (classify (source1 o s) = .quietNan → classify (source2 o s) ≠ .trappingNan →
      (∀ i, twoOperands i o → copies i s (source1 o s))
      ∧ copies (.sub o) s (extWithSign (!extSign (source1 o s)) (source1 o s)))
    ∧ (isNan (source1 o s) = false → classify (source2 o s) = .quietNan →
      (∀ i, twoOperands i o → copies i s (source2 o s)) ∧ copies (.sub o) s (source2 o s))
    ∧ (isInfinity (source1 o s) → isInfinity (source2 o s) →
      (extSign (source1 o s) = extSign (source2 o s) → deliversOnly (.add o) s (.infinity (extSign (source1 o s))))
      ∧ (extSign (source1 o s) ≠ extSign (source2 o s) → deliversOnly (.sub o) s (.infinity (extSign (source2 o s)))))
    ∧ (isInfinity (source1 o s) → isZero (source2 o s) = true →
      deliversOnly (.rem o) s (.zero (extSign (source2 o s))))
    ∧ (isInfinity (source1 o s) → isNumber (source2 o s) → copies (.rem o) s (source2 o s))
    ∧ (isNumber (source1 o s) → isInfinity (source2 o s) →
      deliversOnly (.mul o) s (.infinity (extSign (source1 o s) != extSign (source2 o s))))
    ∧ (isZero (source1 o s) = true → isNumber (source2 o s) →
      copies (.add o) s (source2 o s) ∧ copies (.sub o) s (source2 o s)
      ∧ deliversOnly (.mul o) s (.zero (extSign (source1 o s) != extSign (source2 o s))))
    ∧ (isNumber (source1 o s) → isZero (source2 o s) = true →
      copies (.add o) s (source1 o s)
      ∧ copiesNumber (.sub o) s (extWithSign (!extSign (source1 o s)) (source1 o s)) (-extReal (source1 o s)))
    ∧ (isInfinity (source1 o s) → (isNumber (source2 o s) ∨ isZero (source2 o s) = true) →
      deliversOnly (.add o) s (.infinity (extSign (source1 o s)))
      ∧ deliversOnly (.sub o) s (.infinity (!extSign (source1 o s)))
      ∧ deliversOnly (.div o) s (.zero (extSign (source1 o s) != extSign (source2 o s))))
    ∧ ((isNumber (source1 o s) ∨ isZero (source1 o s) = true) → isInfinity (source2 o s) →
      deliversOnly (.add o) s (.infinity (extSign (source2 o s)))
      ∧ deliversOnly (.sub o) s (.infinity (extSign (source2 o s)))
      ∧ deliversOnly (.div o) s (.infinity (extSign (source1 o s) != extSign (source2 o s))))
    ∧ (isInfinity (source1 o s) → (isInfinity (source2 o s) ∨ isNumber (source2 o s)) →
      deliversOnly (.mul o) s (.infinity (extSign (source1 o s) != extSign (source2 o s))))
    ∧ (isNumber (source1 o s) → isZero (source2 o s) = true →
      deliversOnly (.mul o) s (.zero (extSign (source1 o s) != extSign (source2 o s)))
      ∧ deliversOnly (.div o) s (.zero (extSign (source1 o s) != extSign (source2 o s)))
      ∧ deliversOnly (.rem o) s (.zero (extSign (source2 o s))))
    ∧ (isZero (source1 o s) = true → isZero (source2 o s) = true →
      deliversOnly (.add o) s (.zero (if extSign (source1 o s) = extSign (source2 o s) then extSign (source1 o s)
        else decide (roundMode o s = .towardMinus)))
      ∧ deliversOnly (.sub o) s (.zero (if (!extSign (source1 o s)) = extSign (source2 o s) then extSign (source2 o s)
        else decide (roundMode o s = .towardMinus)))
      ∧ deliversOnly (.mul o) s (.zero (extSign (source1 o s) != extSign (source2 o s))))

/-- O37 (spec/41_operation_model.md R254, spec/60_exceptions.md R402, R418): a finite nonzero dividend over zero (an
unnormalized zero divisor included: the spec's decision D25, log 19). -/
def Obligations.DivideByZero : Prop :=
  ∀ (o : Operands) (s : State), isZero (source1 o s) = true → isNumber (source2 o s) →
    (s.asr.qm = true → ∃ t, exec (.div o) s = .next t ∧ t.asr.qs = true ∧ t.asr.ecp = true ∧ t.asr.csc = true
      ∧ t.asr.ra = true ∧ t.regs = s.regs ∧ t.pending = .nothing ∧ t.asr.ps = s.asr.ps ∧ t.asr.is = s.asr.is
      ∧ t.asr.os = s.asr.os ∧ t.asr.us = s.asr.us ∧ drHolds t (source2 o s))
    ∧ (s.asr.qm = false → exec (.div o) s = .next (deliverResult o true
        { deliverDatum o s (.infinity (extSign (source1 o s) != extSign (source2 o s))) with qs := true } s))

/-! ### Exact results -/

/-- O38 (spec/41_operation_model.md R258, spec/42_arithmetic.md R282 to R285): ADD, SUB, MUL and DIV of numbers finish the
exact sum, difference, product and quotient; an exact zero sum is +0, or -0 when rounding towards minus infinity (the
spec's decision D29, log 22). -/
def Obligations.ArithmeticOfNumbers : Prop :=
  ∀ (o : Operands) (s : State), isNumber (source1 o s) → isNumber (source2 o s) →
    (extReal (source1 o s) + extReal (source2 o s) ≠ 0 →
      finishesWith (.add o) s (extReal (source1 o s) + extReal (source2 o s)))
    ∧ (extReal (source1 o s) + extReal (source2 o s) = 0 →
      deliversOnly (.add o) s (.zero (decide (roundMode o s = .towardMinus))))
    ∧ (extReal (source2 o s) - extReal (source1 o s) ≠ 0 →
      finishesWith (.sub o) s (extReal (source2 o s) - extReal (source1 o s)))
    ∧ (extReal (source2 o s) - extReal (source1 o s) = 0 →
      deliversOnly (.sub o) s (.zero (decide (roundMode o s = .towardMinus))))
    ∧ finishesWith (.mul o) s (extReal (source1 o s) * extReal (source2 o s))
    ∧ finishesWith (.div o) s (extReal (source2 o s) / extReal (source1 o s))

/-- O39 (spec/42_arithmetic.md R290): SQRT of a positive number finishes its exact square root; a zero of either sign,
plus infinity and a nontrapping NaN are copied. -/
def Obligations.SquareRoot : Prop :=
  ∀ (o : Operands) (s : State),
    (isNumber (source1 o s) → extSign (source1 o s) = false →
      finishesWith (.sqrt o) s (Real.sqrt (extReal (source1 o s))))
    ∧ (isZero (source1 o s) = true ∨ classify (source1 o s) = .quietNan
        ∨ (isInfinity (source1 o s) ∧ extSign (source1 o s) = false) → copies (.sqrt o) s (source1 o s))

/-- O40 (spec/42_arithmetic.md R286, R289): REM of numbers gives Op2 - n*Op1. With PR = 0, n is the integer nearest to
the quotient, even in a tie, and a zero has the dividend's sign; PR = 1 happens only for a dividend larger than the
divisor, leaves a smaller one, and what is stored is that remainder itself, since the destination holds it exactly
(partial steps: the spec's decision D33, log 26; that a partial remainder, too, can signal underflow is the
model's choice, log 26). -/
def Obligations.Remainder : Prop :=
  ∀ (o : Operands) (s : State), isNumber (source1 o s) → isNumber (source2 o s) →
    ∃ (n : ℤ) (isPartial : Bool) (z : Exact),
      standsFor z (extReal (source2 o s) - n * extReal (source1 o s))
      ∧ exec (.rem o) s = .next (completeOperation o true (withPartial isPartial
          (if extReal (source2 o s) - n * extReal (source1 o s) = 0 then
            deliverDatum o s (.zero (extSign (source2 o s)))
          else deliverFinished o s (finish s.asr (destPrec o s) (roundMode o s) false z))) s)
      ∧ (isPartial = false → |n - extReal (source2 o s) / extReal (source1 o s)| ≤ 1 / 2
          ∧ (|n - extReal (source2 o s) / extReal (source1 o s)| = 1 / 2 → Even n))
      ∧ (isPartial = true → |extReal (source1 o s)| < |extReal (source2 o s)|
          ∧ |extReal (source2 o s) - n * extReal (source1 o s)| < |extReal (source2 o s)|
          ∧ ((finish s.asr (destPrec o s) (roundMode o s) false z).trap = none →
              datumReal (finish s.asr (destPrec o s) (roundMode o s) false z).value
                = extReal (source2 o s) - n * extReal (source1 o s)
              ∧ (finish s.asr (destPrec o s) (roundMode o s) false z).ps = false))

/-- O41 (spec/42_arithmetic.md R292): RTOI finishes the operand rounded to an integer, with the operand's sign when that is
zero; the inexact condition exists when they differ (the rounding mode is the spec's decision D28, log 22). Zeros,
infinities and nontrapping NaNs are copied (its decision D31, log 24). -/
def Obligations.RoundToIntegral : Prop :=
  ∀ (o : Operands) (s : State),
    (isNumber (source1 o s) →
      ∃ (n : ℤ) (forced : Bool) (z : Exact), roundsTo (roundMode o s) 0 (extReal (source1 o s)) n ∧ standsFor z n
        ∧ z.neg = extSign (source1 o s) ∧ (forced = true ↔ (n : ℝ) ≠ extReal (source1 o s))
        ∧ exec (.rtoi o) s = .next (completeOperation o true
            (deliverFinished o s (finish s.asr (destPrec o s) (roundMode o s) forced z)) s))
    ∧ (isZero (source1 o s) = true ∨ classify (source1 o s) = .quietNan ∨ isInfinity (source1 o s) →
        copies (.rtoi o) s (source1 o s))

/-- O42 (spec/44_data_transfer.md R331, spec/42_arithmetic.md R281, R291, spec/41_operation_model.md R230, R255): MOVE, ABS
and NEG of numbers, infinities, zeros and nontrapping NaNs, whose sign ABS clears and NEG complements (a number with
exponent field 0 and J = 1 is copied to a double-extended destination bit for bit: R450; for ABS and NEG, and for a
register, that is the model's reading, log 19). -/
def Obligations.MoveFamily : Prop :=
  ∀ (o : Operands) (s : State),
    (isNumber (source1 o s) → copiesNumber (.move o) s (source1 o s) (extReal (source1 o s))
      ∧ copiesNumber (.abs o) s (extWithSign false (source1 o s)) |extReal (source1 o s)|
      ∧ copiesNumber (.neg o) s (extWithSign (!extSign (source1 o s)) (source1 o s)) (-extReal (source1 o s)))
    ∧ (isInfinity (source1 o s) → deliversOnly (.move o) s (.infinity (extSign (source1 o s)))
      ∧ deliversOnly (.abs o) s (.infinity false) ∧ deliversOnly (.neg o) s (.infinity (!extSign (source1 o s))))
    ∧ (isZero (source1 o s) = true → deliversOnly (.move o) s (.zero (extSign (source1 o s)))
      ∧ deliversOnly (.abs o) s (.zero false) ∧ deliversOnly (.neg o) s (.zero (!extSign (source1 o s))))
    ∧ (classify (source1 o s) = .quietNan →
      deliversOnly (.move o) s (.nan (extSign (source1 o s)) (extJ (source1 o s)) (extFraction (source1 o s)))
      ∧ deliversOnly (.abs o) s (.nan false (extJ (source1 o s)) (extFraction (source1 o s)))
      ∧ deliversOnly (.neg o) s (.nan (!extSign (source1 o s)) (extJ (source1 o s)) (extFraction (source1 o s))))

/-- O43 (spec/44_data_transfer.md R331, spec/40_data_formats.md R197, R211, spec/41_operation_model.md R235, R236,
spec/60_exceptions.md R450): a MOVE of a single or double word from memory to memory of the same size delivers the same
bits and sets no sticky bit, for every operand that is no trapping NaN, when an underflow is not signalled (that the
fraction of a NaN is kept where it fits is the model's reading, log 21). So does a MOVE of a register, or of any other
source in its double-extended form, to a triple word or a double-extended register, unless it is a trapping NaN or
unnormalized (to a register: the model's reading, log 19). -/
def Obligations.MoveIsIdentity : Prop :=
  ∀ (s : State), s.asr.um = false →
    (∀ w rc, s.op1In = [w] → classify (widenSingle w) ≠ .trappingNan →
      ∃ t image, exec (.move ⟨.mem .one, .none, .mem .one, rc⟩) s = .next t ∧ deliversWords s.modeLock t image
        ∧ tripleWord image 0 = w ∧ t.asr.is = s.asr.is ∧ otherStickySame s.asr t.asr)
    ∧ (∀ w0 w1 rc, s.op1In = [w0, w1] → classify (widenDouble (w0 ++ w1)) ≠ .trappingNan →
      ∃ t image, exec (.move ⟨.mem .two, .none, .mem .two, rc⟩) s = .next t ∧ deliversWords s.modeLock t image
        ∧ tripleWord image 0 = w0 ∧ tripleWord image 1 = w1 ∧ t.asr.is = s.asr.is ∧ otherStickySame s.asr t.asr)
    ∧ (∀ o q, o.op1 = .reg q → source1 o s = s.regs.get q)
    ∧ ∀ o, classify (source1 o s) ≠ .trappingNan →
      (isNan (source1 o s) = true ∨ isInfinity (source1 o s) ∨ extExponent (source1 o s) = 0
        ∨ extJ (source1 o s) = true) →
      (o.op3 = .mem .three → ∃ t, exec (.move o) s = .next t ∧ deliversWords s.modeLock t (0#16 ++ source1 o s)
        ∧ t.asr.is = s.asr.is ∧ otherStickySame s.asr t.asr)
      ∧ (∀ q, o.op3 = .reg q .extended → ∃ t, exec (.move o) s = .next t
        ∧ deliversRegister s.modeLock t q (source1 o s) ∧ t.asr.is = s.asr.is ∧ otherStickySame s.asr t.asr)

/-! ### Rounding and formats -/

/-- O44 (spec/41_operation_model.md R240, R241): rounding a number, given exactly or by its leading bits, to a
multiple of a power of two in each of the four modes. -/
def Obligations.RoundingToGrid : Prop :=
  ∀ (rc : RoundMode) (q : ℤ) (z : Exact) (x : ℝ), standsFor z x → (z.sticky = true → z.exp < q) →
    roundsTo rc q x (if z.neg then -(roundAt rc q z : ℤ) else (roundAt rc q z : ℤ))

/-- O45 (spec/41_operation_model.md R246, R244, R247, spec/60_exceptions.md R419): `Finish` of a number whose rounded
result is neither too large nor tiny delivers the correctly rounded result; the inexact condition exists when it differs
or is forced, and when it is signalled the handler's information is that result with L, G, R, S of the unrounded
number (which discarded bit is G, R and S is general knowledge, log 40). -/
def Obligations.FinishInRange : Prop :=
  ∀ (asr : Asr) (p : Prec) (rc : RoundMode) (forced : Bool) (z : Exact) (x : ℝ) (E n : ℤ),
    standsFor z x → x ≠ 0 → leadingBit x E → roundsTo rc (E - precBits p + 1) x n →
    |(n : ℝ)| * (2 : ℝ) ^ (E - precBits p + 1) < (2 : ℝ) ^ (precEmax p + 1) →
    ((2 : ℝ) ^ precEmin p ≤ |x| ∨ (2 : ℝ) ^ precEmin p ≤ |(n : ℝ)| * (2 : ℝ) ^ (E - precBits p + 1)) →
    datumReal (finish asr p rc forced z).value = n * (2 : ℝ) ^ (E - precBits p + 1)
    ∧ (finish asr p rc forced z).os = false ∧ (finish asr p rc forced z).us = false
    ∧ ((finish asr p rc forced z).ps = true ↔ forced = true ∨ (n : ℝ) * (2 : ℝ) ^ (E - precBits p + 1) ≠ x)
    ∧ ((finish asr p rc forced z).trap.isSome = true ↔
        asr.pm = true ∧ (forced = true ∨ (n : ℝ) * (2 : ℝ) ^ (E - precBits p + 1) ≠ x))
    ∧ ∀ info, (finish asr p rc forced z).trap = some info → ∃ lgrs,
        info = .inexact (finish asr p rc forced z).value p false (some lgrs) ∧ guardBits (E - precBits p + 1) x lgrs

/-- O46 (spec/41_operation_model.md R242, R247, spec/60_exceptions.md R417, R419): overflow. With OM = 1 it is signalled with the
rounded result, its true exponent and L, G, R, S of the unrounded number; with OM = 0 the mode decides between infinity
and the largest number, which is inexact (PS: the spec's decision D26, log 20; which discarded bit is G, R and S is
general knowledge, log 40). -/
def Obligations.FinishOverflow : Prop :=
  ∀ (asr : Asr) (p : Prec) (rc : RoundMode) (forced : Bool) (z : Exact) (x : ℝ) (E n : ℤ),
    standsFor z x → x ≠ 0 → leadingBit x E → roundsTo rc (E - precBits p + 1) x n →
    (2 : ℝ) ^ (precEmax p + 1) ≤ |(n : ℝ)| * (2 : ℝ) ^ (E - precBits p + 1) →
    (finish asr p rc forced z).os = true ∧ (finish asr p rc forced z).us = false
    ∧ (asr.om = true → (finish asr p rc forced z).ps = false
        ∧ ∃ top sig lgrs, (finish asr p rc forced z).trap = some (.rounded (decide (x < 0)) top sig lgrs)
          ∧ 2 ^ 63 ≤ sig ∧ sig < 2 ^ 64 ∧ guardBits (E - precBits p + 1) x lgrs
          ∧ (sig : ℝ) * (2 : ℝ) ^ (top - 63) = |(n : ℝ)| * (2 : ℝ) ^ (E - precBits p + 1))
    ∧ (asr.om = false → (finish asr p rc forced z).ps = true
        ∧ ((finish asr p rc forced z).trap.isSome = true ↔ asr.pm = true)
        ∧ (∀ info, (finish asr p rc forced z).trap = some info → ∃ lgrs,
            info = .inexact (finish asr p rc forced z).value p false (some lgrs) ∧ guardBits (E - precBits p + 1) x lgrs)
        ∧ (finish asr p rc forced z).value =
          (if rc = .nearest ∨ (rc = .towardPlus ∧ 0 < x) ∨ (rc = .towardMinus ∧ x < 0) then .infinity (decide (x < 0))
            else .finite (decide (x < 0)) (2 ^ precBits p - 1) (precEmax p - precBits p + 1)))

/-- O47 (spec/41_operation_model.md R243, R247, spec/60_exceptions.md R417, R419): underflow. With UM = 1 it is signalled
with the rounded result, its true exponent and L, G, R, S of the unrounded number; with UM = 0 the number is rounded
once to the denormalized grid, keeping its sign, US says whether accuracy was lost, and L, G, R, S are those of that grid
(PS: the spec's decision D26, log 20; which discarded bit is G, R and S is general knowledge, log 40). -/
def Obligations.FinishUnderflow : Prop :=
  ∀ (asr : Asr) (p : Prec) (rc : RoundMode) (forced : Bool) (z : Exact) (x : ℝ) (E n m : ℤ),
    standsFor z x → x ≠ 0 → leadingBit x E → roundsTo rc (E - precBits p + 1) x n →
    |x| < (2 : ℝ) ^ precEmin p → |(n : ℝ)| * (2 : ℝ) ^ (E - precBits p + 1) < (2 : ℝ) ^ precEmin p →
    roundsTo rc (precEmin p - precBits p + 1) x m →
    (finish asr p rc forced z).os = false
    ∧ (asr.um = true → (finish asr p rc forced z).us = true ∧ (finish asr p rc forced z).ps = false
        ∧ ∃ top sig lgrs, (finish asr p rc forced z).trap = some (.rounded (decide (x < 0)) top sig lgrs)
          ∧ 2 ^ 63 ≤ sig ∧ sig < 2 ^ 64 ∧ guardBits (E - precBits p + 1) x lgrs
          ∧ (sig : ℝ) * (2 : ℝ) ^ (top - 63) = |(n : ℝ)| * (2 : ℝ) ^ (E - precBits p + 1))
    ∧ (asr.um = false →
        datumReal (finish asr p rc forced z).value = m * (2 : ℝ) ^ (precEmin p - precBits p + 1)
        ∧ (finish asr p rc forced z).value.sign = decide (x < 0)
        ∧ ((finish asr p rc forced z).us = true ↔ (m : ℝ) * (2 : ℝ) ^ (precEmin p - precBits p + 1) ≠ x)
        ∧ ((finish asr p rc forced z).ps = true ↔
            forced = true ∨ (m : ℝ) * (2 : ℝ) ^ (precEmin p - precBits p + 1) ≠ x)
        ∧ ((finish asr p rc forced z).trap.isSome = true ↔ asr.pm = true
            ∧ (forced = true ∨ (m : ℝ) * (2 : ℝ) ^ (precEmin p - precBits p + 1) ≠ x))
        ∧ ∀ info, (finish asr p rc forced z).trap = some info → ∃ lgrs,
            info = .inexact (finish asr p rc forced z).value p (finish asr p rc forced z).us (some lgrs)
            ∧ guardBits (precEmin p - precBits p + 1) x lgrs)

/-- O48 (spec/40_data_formats.md R197): widening a finite single or double operand keeps its value, and a NaN or
infinity its kind (a denormalized operand: the spec's decisions D23 and D24, log 19). -/
def Obligations.WideningKeepsValue : Prop :=
  (∀ w : Word, (w.extractLsb' 23 8).toNat ≠ 255 → extReal (widenSingle w) = singleReal w
    ∧ (isZero (widenSingle w) = true ∨ isNumber (widenSingle w)))
  ∧ (∀ d : BitVec 64, (d.extractLsb' 52 11).toNat ≠ 2047 → extReal (widenDouble d) = doubleReal d
    ∧ (isZero (widenDouble d) = true ∨ isNumber (widenDouble d)))
  ∧ (∀ w : Word, (w.extractLsb' 23 8).toNat = 255 →
      extSign (widenSingle w) = w.getLsbD 31
      ∧ classify (widenSingle w) = (if w.extractLsb' 0 23 = 0 then .infinity
        else if w.getLsbD 22 then .quietNan else .trappingNan))
  ∧ ∀ d : BitVec 64, (d.extractLsb' 52 11).toNat = 2047 →
      extSign (widenDouble d) = d.getLsbD 63
      ∧ classify (widenDouble d) = (if d.extractLsb' 0 52 = 0 then .infinity
        else if d.getLsbD 51 then .quietNan else .trappingNan)

/-- O49 (spec/41_operation_model.md R236, R237, R260, spec/40_data_formats.md R211): the encoding of a number that the
destination precision represents has that value; an infinity, a zero and a nontrapping NaN keep their kind and sign in
every precision, and the generated NaN has all ones below a sign of 0 (that a NaN whose fraction does not fit stays a
nontrapping NaN of its sign is the spec's decision D27, log 21). -/
def Obligations.EncodingKeepsValue : Prop :=
  (∀ (p : Prec) (neg j : Bool) (f : BitVec 63), f.getLsbD 62 = true →
    (classify (encodeRegister p (.nan neg j f)) = .quietNan ∧ extSign (encodeRegister p (.nan neg j f)) = neg)
    ∧ (classify (widenSingle (encodeSingle (.nan neg j f))) = .quietNan
        ∧ (encodeSingle (.nan neg j f)).getLsbD 31 = neg)
    ∧ (classify (widenDouble (encodeDouble (.nan neg j f))) = .quietNan
        ∧ (encodeDouble (.nan neg j f)).getLsbD 63 = neg))
  ∧ (∀ (p : Prec) (neg : Bool),
    (classify (encodeRegister p (.infinity neg)) = .infinity ∧ extSign (encodeRegister p (.infinity neg)) = neg)
    ∧ widenSingle (encodeSingle (.infinity neg)) = encodeRegister p (.infinity neg)
    ∧ widenDouble (encodeDouble (.infinity neg)) = encodeRegister p (.infinity neg)
    ∧ (classify (encodeRegister p (.zero neg)) = .zero ∧ extSign (encodeRegister p (.zero neg)) = neg)
    ∧ widenSingle (encodeSingle (.zero neg)) = encodeRegister p (.zero neg)
    ∧ widenDouble (encodeDouble (.zero neg)) = encodeRegister p (.zero neg)
    ∧ encodeRegister p .generatedNan = 0x7FFFFFFFFFFFFFFFFFFF)
  ∧ encodeSingle .generatedNan = 0x7FFFFFFF ∧ encodeDouble .generatedNan = 0x7FFFFFFFFFFFFFFF
  ∧ ∀ (p : Prec) (neg : Bool) (sig m : ℕ) (lsb e : ℤ), 0 < sig →
    (sig : ℝ) * (2 : ℝ) ^ lsb = m * (2 : ℝ) ^ e → m < 2 ^ precBits p → precLeast p ≤ e →
    (sig : ℝ) * (2 : ℝ) ^ lsb < (2 : ℝ) ^ (precEmax p + 1) →
    extReal (encodeRegister p (.finite neg sig lsb)) = datumReal (.finite neg sig lsb)
    ∧ isNumber (encodeRegister p (.finite neg sig lsb))
    ∧ (p = .single → singleReal (encodeSingle (.finite neg sig lsb)) = datumReal (.finite neg sig lsb)
        ∧ ((encodeSingle (.finite neg sig lsb)).extractLsb' 23 8).toNat ≠ 255)
    ∧ (p = .double → doubleReal (encodeDouble (.finite neg sig lsb)) = datumReal (.finite neg sig lsb)
        ∧ ((encodeDouble (.finite neg sig lsb)).extractLsb' 52 11).toNat ≠ 2047)

/-! ### Compare -/

/-- O50 (spec/43_compare.md R311 to R316): the flags of the four compares on the extended real line, unordered with a NaN;
a trapping NaN, or for CMPE and CMPES any NaN, is an invalid operation, signalled with IO = PR = 0 and UO = 1. -/
def Obligations.CompareFlags : Prop :=
  ∀ (i : Instr) (o : Operands) (s : State), (i = .cmp o ∨ i = .cmpe o ∨ i = .cmps o ∨ i = .cmpes o) →
    ∃ t, exec i s = .next t ∧ otherStickySame s.asr t.asr ∧ t.asr.io = false ∧ t.asr.pr = false
      ∧ (isNan (source1 o s) = false → isNan (source2 o s) = false →
          t.asr.uo = false ∧ t.asr.is = s.asr.is
          ∧ ((i = .cmp o ∨ i = .cmpe o) → (t.asr.n = true ↔ extLine (source1 o s) < extLine (source2 o s))
              ∧ (t.asr.z = true ↔ extLine (source1 o s) = extLine (source2 o s)))
          ∧ ((i = .cmps o ∨ i = .cmpes o) → (t.asr.z = true ↔ extLine (source1 o s) < extLine (source2 o s))
              ∧ (t.asr.n = true ↔ extLine (source1 o s) = extLine (source2 o s))))
      ∧ ((isNan (source1 o s) = true ∨ isNan (source2 o s) = true) → t.asr.uo = true)
      ∧ ((isNan (source1 o s) = true ∨ isNan (source2 o s) = true) → invalidEnabled s.asr = false →
          t.asr.n = false ∧ t.asr.z = false)
      ∧ ((classify (source1 o s) = .trappingNan ∨ classify (source2 o s) = .trappingNan
            ∨ ((i = .cmpe o ∨ i = .cmpes o) ∧ (isNan (source1 o s) = true ∨ isNan (source2 o s) = true))) →
          t.asr.is = true
          ∧ (invalidEnabled s.asr = true → t.asr.ecp = true ∧ t.regs = s.regs ∧ t.pending = .nothing
              ∧ drHolds t (if classify (source1 o s) = .trappingNan then source1 o s else source2 o s)))
      ∧ ((i = .cmp o ∨ i = .cmps o) → classify (source1 o s) ≠ .trappingNan →
          classify (source2 o s) ≠ .trappingNan → t.asr.is = s.asr.is)

/-! ### Conversions -/

/-- O51 (spec/45_conversion.md R353): FTOI to memory. Of a finite operand: the rounded integer in the last word, IO and no
exception when it does not fit in 32 bits (the rounding mode is the spec's decision D28, log 22). A NaN or infinity is an
invalid operation, signalled with Op1 for the handler, or delivering undefined words (D38, log 31). -/
def Obligations.FloatToInteger : Prop :=
  ∀ (o : Operands) (s : State), (∀ q p, o.op3 ≠ .reg q p) →
    ((isNan (source1 o s) = true ∨ isInfinity (source1 o s)) →
      (invalidEnabled s.asr = true → ∃ t, exec (.ftoi o) s = .next t ∧ invalidTaken s t ∧ drHolds t (source1 o s))
      ∧ (invalidEnabled s.asr = false → ∃ t, exec (.ftoi o) s = .next t ∧ t.asr.is = true ∧ t.asr.io = false
          ∧ t.asr.pr = false ∧ t.asr.uo = false ∧ otherStickySame s.asr t.asr ∧ t.regs = s.regs
          ∧ t.pendingException = false ∧ (t.asr.ecp = true → s.asr.ecp = true)))
    ∧ ∀ n : ℤ, isNan (source1 o s) = false → ¬ isInfinity (source1 o s) →
      roundsTo (roundMode o s) 0 (extReal (source1 o s)) n →
      (-2147483648 ≤ n → n ≤ 2147483647 → (s.asr.pm = false ∨ (n : ℝ) = extReal (source1 o s)) →
        ∃ t, exec (.ftoi o) s = .next t ∧ t.asr.io = false ∧ (t.asr.n = true ↔ n < 0) ∧ (t.asr.z = true ↔ n = 0)
          ∧ (t.asr.ps = true ↔ s.asr.ps = true ∨ (n : ℝ) ≠ extReal (source1 o s)) ∧ t.asr.is = s.asr.is
          ∧ ∀ k, o.op3 = .mem k → ∃ image, deliversWords s.modeLock t image
              ∧ tripleWord image (k.words - 1) = BitVec.ofInt 32 n)
      ∧ (-2147483648 ≤ n → n ≤ 2147483647 → s.asr.pm = true → (n : ℝ) ≠ extReal (source1 o s) →
        ∃ t, exec (.ftoi o) s = .next t ∧ t.asr.ps = true ∧ t.asr.ecp = true ∧ t.asr.io = false ∧ t.asr.is = s.asr.is
          ∧ t.regs = s.regs ∧ t.pending = .nothing)
      ∧ ((n < -2147483648 ∨ 2147483647 < n) →
        ∃ t, exec (.ftoi o) s = .next t ∧ t.asr.io = true ∧ t.asr.pr = false ∧ t.asr.uo = false ∧ t.asr.is = s.asr.is
          ∧ otherStickySame s.asr t.asr ∧ (t.asr.ecp = true → s.asr.ecp = true))

/-- O52 (spec/45_conversion.md R352, R355, R356, spec/40_data_formats.md R200 to R202): FTOD to three words. Of a finite
operand: the decimal of the rounded integer with the operand's sign, or IO from 10^18 on, with neither OS nor US (D28,
log 22; D36, log 29; OS and US: D37, log 30). Infinities and NaNs become decimal ones; a trapping NaN is invalid. -/
def Obligations.FloatToDecimal : Prop :=
  ∀ (o : Operands) (s : State), o.op3 = .mem .three →
    (classify (source1 o s) = .trappingNan →
      (invalidEnabled s.asr = true → ∃ t, exec (.ftod o) s = .next t ∧ invalidTaken s t ∧ drHolds t (source1 o s))
      ∧ (invalidEnabled s.asr = false → ∃ t image, exec (.ftod o) s = .next t ∧ deliversWords s.modeLock t image
          ∧ decClassify image = .signedNan false ∧ image.extractLsb' 76 20 = 0 ∧ t.asr.is = true
          ∧ otherStickySame s.asr t.asr))
    ∧ ((classify (source1 o s) = .quietNan ∨ isInfinity (source1 o s)) →
      ∃ t image, exec (.ftod o) s = .next t ∧ deliversWords s.modeLock t image
        ∧ decClassify image = (if classify (source1 o s) = .quietNan then .signedNan (extSign (source1 o s))
            else .infinity (extSign (source1 o s)))
        ∧ image.extractLsb' 76 20 = 0 ∧ t.asr.n = extSign (source1 o s) ∧ t.asr.z = false ∧ t.asr.io = false
        ∧ t.asr.is = s.asr.is ∧ otherStickySame s.asr t.asr)
    ∧ ∀ n : ℤ, isNan (source1 o s) = false → ¬ isInfinity (source1 o s) →
      roundsTo (roundMode o s) 0 (extReal (source1 o s)) n →
      (n.natAbs < 10 ^ 18 → (s.asr.pm = false ∨ (n : ℝ) = extReal (source1 o s)) →
        ∃ t image, exec (.ftod o) s = .next t ∧ deliversWords s.modeLock t image
          ∧ decClassify image = .number (extSign (source1 o s)) n.natAbs
          ∧ image.extractLsb' 76 20 = 0 ∧ t.asr.io = false ∧ t.asr.n = extSign (source1 o s)
          ∧ (t.asr.z = true ↔ n = 0) ∧ (t.asr.ps = true ↔ s.asr.ps = true ∨ (n : ℝ) ≠ extReal (source1 o s)))
      ∧ (n.natAbs < 10 ^ 18 → s.asr.pm = true → (n : ℝ) ≠ extReal (source1 o s) →
        ∃ t, exec (.ftod o) s = .next t ∧ t.asr.ps = true ∧ t.asr.ecp = true ∧ t.asr.io = false ∧ t.regs = s.regs
          ∧ t.pending = .nothing)
      ∧ (10 ^ 18 ≤ n.natAbs →
        ∃ t, exec (.ftod o) s = .next t ∧ t.asr.io = true ∧ t.asr.is = s.asr.is ∧ otherStickySame s.asr t.asr
          ∧ (t.asr.ecp = true → s.asr.ecp = true))

/-- O53 (spec/45_conversion.md R351, R354, R356, spec/40_data_formats.md R201, R202): ITOF and DTOF of operands in memory finish the value of the last word and
of the decimal number; a zero is exact. A decimal infinity stays one, a decimal nontrapping NaN becomes a nontrapping NaN
of its sign (a digit above 9: of either sign), a decimal trapping NaN is invalid with nothing kept for the handler (the
spec's decision D36, log 29). What a decimal container is: by its sign nibble an infinity or a NaN, or plus or minus the
sum of `D_k * 10^k` when all digits are below 10. -/
def Obligations.ToFloat : Prop :=
  (∀ t : Triple, ∀ sign : ℕ, sign = (t.extractLsb' 0 4).toNat →
    (sign ≤ 1 → decClassify t = .infinity (decide (sign = 1)))
    ∧ (2 ≤ sign → sign ≤ 3 → decClassify t = .signedNan (decide (sign = 3)))
    ∧ (4 ≤ sign → sign ≤ 9 → decClassify t = .trappingNan)
    ∧ (10 ≤ sign → (∃ k < 18, 10 ≤ decimalDigit t k) → decClassify t = .badDigitNan)
    ∧ (10 ≤ sign → (∀ k < 18, decimalDigit t k < 10) → decClassify t =
        .number (decide (sign = 11 ∨ sign = 13)) (∑ k ∈ Finset.range 18, decimalDigit t k * 10 ^ k)))
  ∧ ∀ (o : Operands) (s : State),
    (∀ n, o.op1 = .mem n → s.op1In.length = n.words → ∀ w, s.op1In.getLast? = some w →
      (w.toInt ≠ 0 → finishesWith (.itof o) s w.toInt)
      ∧ (w.toInt = 0 → deliversOnly (.itof o) s (.zero false)))
    ∧ (∀ w0 w1 w2, o.op1 = .mem .three → s.op1In = [w0, w1, w2] →
      (∀ neg m, decClassify (w0 ++ w1 ++ w2) = .number neg m →
        (m ≠ 0 → finishesWith (.dtof o) s (signFactor neg * m))
        ∧ (m = 0 → deliversOnly (.dtof o) s (.zero neg)))
      ∧ (∀ neg, decClassify (w0 ++ w1 ++ w2) = .infinity neg → deliversOnly (.dtof o) s (.infinity neg))
      ∧ (∀ neg, decClassify (w0 ++ w1 ++ w2) = .signedNan neg →
          ∃ j f, f.getLsbD 62 = true ∧ deliversOnly (.dtof o) s (.nan neg j f))
      ∧ (decClassify (w0 ++ w1 ++ w2) = .badDigitNan →
          ∃ neg j f, f.getLsbD 62 = true ∧ deliversOnly (.dtof o) s (.nan neg j f))
      ∧ (decClassify (w0 ++ w1 ++ w2) = .trappingNan → invalidWith (.dtof o) s .unspecified))

/-- O54 (spec/41_operation_model.md R252, R253, spec/45_conversion.md R350, R353): a register where a conversion wants memory
is an invalid operation: Op1 for the handler with a register destination, nothing defined with a register source. When
FTOI of a NaN or infinity is not signalled, the register keeps its value (the spec's decision D38, log 31). -/
def Obligations.ConversionRegisterInvalid : Prop :=
  ∀ (o : Operands) (s : State),
    (∀ q p, o.op3 = .reg q p →
      ((invalidEnabled s.asr = true ∨ (isNan (source1 o s) = false ∧ ¬ isInfinity (source1 o s))) →
        invalidWith (.ftoi o) s (.operand (source1 o s)))
      ∧ (invalidEnabled s.asr = false → (isNan (source1 o s) = true ∨ isInfinity (source1 o s)) →
          ∃ t, exec (.ftoi o) s = .next t ∧ t.regs = s.regs ∧ deliversRegister s.modeLock t q (s.regs.get q)
            ∧ t.asr.is = true ∧ t.asr.io = false ∧ t.asr.pr = false ∧ t.asr.uo = false ∧ otherStickySame s.asr t.asr)
      ∧ exec (.ftod o) s = .next (completeOperation o false (invalidOperation o s (.operand (source1 o s))) s))
    ∧ ∀ q, o.op1 = .reg q → invalidWith (.itof o) s .unspecified ∧ invalidWith (.dtof o) s .unspecified

/-! ### Transcendental -/

/-- O55 (spec/46_transcendental.md R371): the enclosure by which the error bound is decided holds the value of the real
sine, cosine or arc tangent of every operand in range, with its sign, and is narrower than 2^-100 of it (log 32). -/
def Obligations.TrigEnclosure : Prop :=
  ∀ (fn : TrigFn) (v : Extended), isNumber v → |extReal v| ≤ trigLimit fn →
    ((trigEnclosure fn (extValue v)).1 : ℝ) * (2 : ℝ) ^ (trigEnclosure fn (extValue v)).2.2 < |trigReal fn (extReal v)|
    ∧ |trigReal fn (extReal v)| < (trigEnclosure fn (extValue v)).2.1 * (2 : ℝ) ^ (trigEnclosure fn (extValue v)).2.2
    ∧ ((trigEnclosure fn (extValue v)).2.1 - (trigEnclosure fn (extValue v)).1) * 2 ^ 100 ≤ (trigEnclosure fn (extValue v)).1
    ∧ (trigSign fn (extValue v) = true ↔ trigReal fn (extReal v) < 0)

/-- O56 (spec/46_transcendental.md R371, R373, R374): SIN and COS of a number are invalid exactly when its magnitude is
above the real number pi/2, ATAN (R372) when it is above 1; otherwise they finish some internal result, inexact whatever
the outcome, and what they deliver is within the error bound (decided with the enclosure of O55, log 32),
with 0 <= COS <= 1 and |SIN| <= 1. -/
def Obligations.TrigRange : Prop :=
  ∀ (fn : TrigFn) (i : Instr) (o : Operands) (s : State), isNumber (source1 o s) →
    (sineOrCosine fn i o →
      (Real.pi / 2 < |extReal (source1 o s)| → invalidWith i s .unspecified)
      ∧ (|extReal (source1 o s)| ≤ Real.pi / 2 → finishesWithin fn i o s))
    ∧ (fn = .atan → i = .atan o →
      (1 < |extReal (source1 o s)| → invalidWith i s .unspecified)
      ∧ (|extReal (source1 o s)| ≤ 1 → finishesWithin fn i o s))

/-- O57 (spec/46_transcendental.md R372 to R374): zeros, infinities and nontrapping NaNs. COS of a zero is exactly +1, SIN
and ATAN give the same zero; infinities are invalid; a nontrapping NaN is copied. -/
def Obligations.TrigSpecialCases : Prop :=
  ∀ (o : Operands) (s : State),
    (isZero (source1 o s) = true → deliversOnly (.cos o) s (.finite false 1 0)
      ∧ deliversOnly (.sin o) s (.zero (extSign (source1 o s))) ∧ deliversOnly (.atan o) s (.zero (extSign (source1 o s))))
    ∧ (isInfinity (source1 o s) → invalidWith (.cos o) s .unspecified ∧ invalidWith (.sin o) s .unspecified
      ∧ invalidWith (.atan o) s .unspecified)
    ∧ (classify (source1 o s) = .quietNan → copies (.cos o) s (source1 o s) ∧ copies (.sin o) s (source1 o s)
      ∧ copies (.atan o) s (source1 o s))

/-- O58 (spec/46_transcendental.md R375): the constants PI delivers with PM = 0, for every rounding mode: a single, double
or double-extended result in memory, and the last in a register. PI is always inexact, N and Z are 0. -/
def Obligations.PiTable : Prop :=
  ∀ (o : Operands) (s : State), s.asr.pm = false →
    ∃ t, exec (.pi o) s = .next t ∧ t.asr.ps = true ∧ t.asr.n = false ∧ t.asr.z = false ∧ t.asr.io = false
      ∧ t.asr.pr = false ∧ t.asr.uo = false
      ∧ (o.op3 = .mem .one → ∃ image, deliversWords s.modeLock t image ∧ tripleWord image 0 =
          (if roundMode o s = .nearest ∨ roundMode o s = .towardPlus then 0x40490FDB#32 else 0x40490FDA#32))
      ∧ (o.op3 = .mem .two → ∃ image, deliversWords s.modeLock t image ∧ tripleWord image 0 = 0x400921FB#32
          ∧ tripleWord image 1 = (if roundMode o s = .towardPlus then 0x54442D19#32 else 0x54442D18#32))
      ∧ (o.op3 = .mem .three → deliversWords s.modeLock t
          (if roundMode o s = .nearest ∨ roundMode o s = .towardPlus then 0x00004000C90FDAA22168C235#96
            else 0x00004000C90FDAA22168C234#96))
      ∧ (∀ q, o.op3 = .reg q .extended → deliversRegister s.modeLock t q
          (if roundMode o s = .nearest ∨ roundMode o s = .towardPlus then 0x4000C90FDAA22168C235#80
            else 0x4000C90FDAA22168C234#80))

/-! ### Transfers that raise nothing -/

/-- O59 (spec/44_data_transfer.md R333, R334, R335, spec/47_miscellaneous.md R390): RDASR stores the ASR but for bit 31
(bit 18 as the stored PS: the spec's decision D9, log 9), WRASR writes the last word of Op1 to it, LDR loads DR and EROF
stores it, three words raw. RDASR and EROF leave DR, which in peripheral mode RDASR's words are read from (log 42). -/
def Obligations.RawTransfers : Prop :=
  ∀ (o : Operands) (s : State),
    (∀ n, o.op3 = .mem n → ∃ t image, exec (.rdasr o) s = .next t ∧ deliversWords s.modeLock t image
      ∧ (s.modeLock = .coprocessor → t.dr = s.dr) ∧ t.regs = s.regs ∧ t.asr = { s.asr with ra := true }
      ∧ ∀ k, k < n.words → ∀ b, b < 31 → (tripleWord image k).getLsbD b = s.asr.toWord.getLsbD b)
    ∧ (∀ n w, o.op1 = .mem n → s.op1In.length = n.words → s.op1In.getLast? = some w →
        ∃ t, exec (.wrasr o) s = .next t ∧ t.asr = Asr.ofWord w
          ∧ ((∀ q p, o.op3 ≠ .reg q p) → t.regs = s.regs)
          ∧ (s.modeLock = .coprocessor → t.done = true ∧ t.pendingException = false)
          ∧ (s.modeLock = .peripheral → t.pireq = true ∧ t.phase = .quiescent))
    ∧ (∀ w0 w1 w2, o.op1 = .mem .three → s.op1In = [w0, w1, w2] →
        ∃ t, exec (.ldr o) s = .next t
          ∧ ((s.modeLock = .coprocessor ∨ ∀ n, o.op3 ≠ .mem n) → t.dr = w0 ++ w1 ++ w2)
          ∧ ((∀ q p, o.op3 ≠ .reg q p) → t.regs = s.regs) ∧ t.asr = { s.asr with ra := true })
    ∧ (o.op3 = .mem .three → ∃ t, exec (.erof o) s = .next t ∧ deliversWords s.modeLock t s.dr ∧ t.dr = s.dr
        ∧ t.regs = s.regs ∧ t.asr = { s.asr with ra := true })

/-- O60 (spec/47_miscellaneous.md R391, R393): NOP and the unassigned opcodes complete and change nothing else: with no
register destination no register, with no destination not DR, and no ASR bit but RA. -/
def Obligations.NoOperation : Prop :=
  ∀ (i : Instr) (o : Operands) (s : State), actsAsNop i o →
    ∃ t, exec i s = .next t ∧ t.asr = { s.asr with ra := true } ∧ t.cr = s.cr
      ∧ ((∀ q p, o.op3 ≠ .reg q p) → t.regs = s.regs) ∧ (o.op3 = .none → t.dr = s.dr ∧ t.pending = .nothing)
      ∧ (s.modeLock = .peripheral → t.pireq = true ∧ t.phase = .quiescent)
      ∧ (s.modeLock = .coprocessor → t.done = true ∧ t.phase = .cDone ∧ t.pendingException = false)
end

