-- ==== Sys2Proof/Laws/State.lean ====
section
/-! SUPPORT. What each update of the state, the ASR and the register file leaves in each field: true by definition, so
that no later proof unfolds a record update. -/

namespace Sys2Proof.Machine

/-! ### Completion -/

@[simp] theorem completeTransaction_asr (x : Bool) (p : Pending) (s : State) :
    (completeTransaction x p s).asr = s.asr := rfl
@[simp] theorem completeTransaction_regs (x : Bool) (p : Pending) (s : State) :
    (completeTransaction x p s).regs = s.regs := rfl
@[simp] theorem completeTransaction_cr (x : Bool) (p : Pending) (s : State) :
    (completeTransaction x p s).cr = s.cr := rfl
@[simp] theorem completeTransaction_dr (x : Bool) (p : Pending) (s : State) :
    (completeTransaction x p s).dr = s.dr := rfl
@[simp] theorem completeTransaction_phase (x : Bool) (p : Pending) (s : State) :
    (completeTransaction x p s).phase = (if s.modeLock = .peripheral then .quiescent else .cDone) := rfl
@[simp] theorem completeTransaction_op1In (x : Bool) (p : Pending) (s : State) :
    (completeTransaction x p s).op1In = [] := rfl
@[simp] theorem completeTransaction_op2In (x : Bool) (p : Pending) (s : State) :
    (completeTransaction x p s).op2In = [] := rfl
@[simp] theorem completeTransaction_modeLock (x : Bool) (p : Pending) (s : State) :
    (completeTransaction x p s).modeLock = s.modeLock := rfl
@[simp] theorem completeTransaction_pireq (x : Bool) (p : Pending) (s : State) :
    (completeTransaction x p s).pireq = (s.pireq || decide (s.modeLock = .peripheral)) := rfl
@[simp] theorem completeTransaction_done (x : Bool) (p : Pending) (s : State) :
    (completeTransaction x p s).done = decide (s.modeLock = .coprocessor) := rfl
@[simp] theorem completeTransaction_pendingException (x : Bool) (p : Pending) (s : State) :
    (completeTransaction x p s).pendingException = (x && decide (s.modeLock = .coprocessor)) := rfl
@[simp] theorem completeTransaction_pending (x : Bool) (p : Pending) (s : State) :
    (completeTransaction x p s).pending = (if s.modeLock = .peripheral then .nothing else p) := rfl
@[simp] theorem completeTransaction_statusRetry (x : Bool) (p : Pending) (s : State) :
    (completeTransaction x p s).statusRetry = s.statusRetry := rfl
@[simp] theorem completeTransaction_bus (x : Bool) (p : Pending) (s : State) :
    (completeTransaction x p s).bus = .idle := rfl
@[simp] theorem completeTransaction_inbox (x : Bool) (p : Pending) (s : State) :
    (completeTransaction x p s).inbox = s.inbox := rfl
@[simp] theorem completeTransaction_draws (x : Bool) (p : Pending) (s : State) :
    (completeTransaction x p s).draws = s.draws + 1 := rfl

/-! ### Taking an exception -/

@[simp] theorem raiseException_asr (r : OpResult) (info : TrapInfo) (s : State) :
    (raiseException r info s).asr = asrAfter s.asr r := rfl
@[simp] theorem raiseException_regs (r : OpResult) (info : TrapInfo) (s : State) :
    (raiseException r info s).regs = s.regs := rfl
@[simp] theorem raiseException_cr (r : OpResult) (info : TrapInfo) (s : State) :
    (raiseException r info s).cr = s.cr := rfl
@[simp] theorem raiseException_dr (r : OpResult) (info : TrapInfo) (s : State) :
    (raiseException r info s).dr = trapDr s.modeLock s.draws info := rfl
@[simp] theorem raiseException_phase (r : OpResult) (info : TrapInfo) (s : State) :
    (raiseException r info s).phase = (if s.modeLock = .peripheral then .quiescent else .cDone) := rfl
@[simp] theorem raiseException_op1In (r : OpResult) (info : TrapInfo) (s : State) :
    (raiseException r info s).op1In = [] := rfl
@[simp] theorem raiseException_op2In (r : OpResult) (info : TrapInfo) (s : State) :
    (raiseException r info s).op2In = [] := rfl
@[simp] theorem raiseException_modeLock (r : OpResult) (info : TrapInfo) (s : State) :
    (raiseException r info s).modeLock = s.modeLock := rfl
@[simp] theorem raiseException_pireq (r : OpResult) (info : TrapInfo) (s : State) :
    (raiseException r info s).pireq = (s.pireq || decide (s.modeLock = .peripheral)) := rfl
@[simp] theorem raiseException_done (r : OpResult) (info : TrapInfo) (s : State) :
    (raiseException r info s).done = decide (s.modeLock = .coprocessor) := rfl
@[simp] theorem raiseException_pendingException (r : OpResult) (info : TrapInfo) (s : State) :
    (raiseException r info s).pendingException = decide (s.modeLock = .coprocessor) := rfl
@[simp] theorem raiseException_pending (r : OpResult) (info : TrapInfo) (s : State) :
    (raiseException r info s).pending = .nothing := ite_self _
@[simp] theorem raiseException_statusRetry (r : OpResult) (info : TrapInfo) (s : State) :
    (raiseException r info s).statusRetry = s.statusRetry := rfl
@[simp] theorem raiseException_bus (r : OpResult) (info : TrapInfo) (s : State) :
    (raiseException r info s).bus = .idle := rfl
@[simp] theorem raiseException_inbox (r : OpResult) (info : TrapInfo) (s : State) :
    (raiseException r info s).inbox = s.inbox := rfl
@[simp] theorem raiseException_draws (r : OpResult) (info : TrapInfo) (s : State) :
    (raiseException r info s).draws = s.draws + 1 := rfl

/-! ### Delivering a result -/

@[simp] theorem deliverResult_asr (o : Operands) (k : Bool) (r : OpResult) (s : State) :
    (deliverResult o k r s).asr = asrAfter s.asr r := rfl
@[simp] theorem deliverResult_regs (o : Operands) (k : Bool) (r : OpResult) (s : State) :
    (deliverResult o k r s).regs = regsAfter o r.reg s := rfl
@[simp] theorem deliverResult_cr (o : Operands) (k : Bool) (r : OpResult) (s : State) :
    (deliverResult o k r s).cr = s.cr := rfl
@[simp] theorem deliverResult_dr (o : Operands) (k : Bool) (r : OpResult) (s : State) :
    (deliverResult o k r s).dr = drAfter o k r.image s := rfl
@[simp] theorem deliverResult_phase (o : Operands) (k : Bool) (r : OpResult) (s : State) :
    (deliverResult o k r s).phase = (if s.modeLock = .peripheral then .quiescent else .cDone) := rfl
@[simp] theorem deliverResult_op1In (o : Operands) (k : Bool) (r : OpResult) (s : State) :
    (deliverResult o k r s).op1In = [] := rfl
@[simp] theorem deliverResult_op2In (o : Operands) (k : Bool) (r : OpResult) (s : State) :
    (deliverResult o k r s).op2In = [] := rfl
@[simp] theorem deliverResult_modeLock (o : Operands) (k : Bool) (r : OpResult) (s : State) :
    (deliverResult o k r s).modeLock = s.modeLock := rfl
@[simp] theorem deliverResult_pireq (o : Operands) (k : Bool) (r : OpResult) (s : State) :
    (deliverResult o k r s).pireq = (s.pireq || decide (s.modeLock = .peripheral)) := rfl
@[simp] theorem deliverResult_done (o : Operands) (k : Bool) (r : OpResult) (s : State) :
    (deliverResult o k r s).done = decide (s.modeLock = .coprocessor) := rfl
@[simp] theorem deliverResult_pendingException (o : Operands) (k : Bool) (r : OpResult) (s : State) :
    (deliverResult o k r s).pendingException = false := rfl
@[simp] theorem deliverResult_pending (o : Operands) (k : Bool) (r : OpResult) (s : State) :
    (deliverResult o k r s).pending = (if s.modeLock = .peripheral then .nothing else pendingFor o.op3 r.reg r.image) := rfl
@[simp] theorem deliverResult_statusRetry (o : Operands) (k : Bool) (r : OpResult) (s : State) :
    (deliverResult o k r s).statusRetry = s.statusRetry := rfl
@[simp] theorem deliverResult_bus (o : Operands) (k : Bool) (r : OpResult) (s : State) :
    (deliverResult o k r s).bus = .idle := rfl
@[simp] theorem deliverResult_inbox (o : Operands) (k : Bool) (r : OpResult) (s : State) :
    (deliverResult o k r s).inbox = s.inbox := rfl
@[simp] theorem deliverResult_draws (o : Operands) (k : Bool) (r : OpResult) (s : State) :
    (deliverResult o k r s).draws = s.draws + 1 := rfl

/-! ### Exempt operations -/

@[simp] theorem completeRaw_asr (o : Operands) (a : Asr) (dr : Triple) (v : Extended) (t : Triple) (s : State) :
    (completeRaw o a dr v t s).asr = a := rfl
@[simp] theorem completeRaw_regs (o : Operands) (a : Asr) (dr : Triple) (v : Extended) (t : Triple) (s : State) :
    (completeRaw o a dr v t s).regs = regsAfter o v s := rfl
@[simp] theorem completeRaw_cr (o : Operands) (a : Asr) (dr : Triple) (v : Extended) (t : Triple) (s : State) :
    (completeRaw o a dr v t s).cr = s.cr := rfl
@[simp] theorem completeRaw_dr (o : Operands) (a : Asr) (dr : Triple) (v : Extended) (t : Triple) (s : State) :
    (completeRaw o a dr v t s).dr = dr := rfl
@[simp] theorem completeRaw_phase (o : Operands) (a : Asr) (dr : Triple) (v : Extended) (t : Triple) (s : State) :
    (completeRaw o a dr v t s).phase = (if s.modeLock = .peripheral then .quiescent else .cDone) := rfl
@[simp] theorem completeRaw_op1In (o : Operands) (a : Asr) (dr : Triple) (v : Extended) (t : Triple) (s : State) :
    (completeRaw o a dr v t s).op1In = [] := rfl
@[simp] theorem completeRaw_op2In (o : Operands) (a : Asr) (dr : Triple) (v : Extended) (t : Triple) (s : State) :
    (completeRaw o a dr v t s).op2In = [] := rfl
@[simp] theorem completeRaw_modeLock (o : Operands) (a : Asr) (dr : Triple) (v : Extended) (t : Triple) (s : State) :
    (completeRaw o a dr v t s).modeLock = s.modeLock := rfl
@[simp] theorem completeRaw_pireq (o : Operands) (a : Asr) (dr : Triple) (v : Extended) (t : Triple) (s : State) :
    (completeRaw o a dr v t s).pireq = (s.pireq || decide (s.modeLock = .peripheral)) := rfl
@[simp] theorem completeRaw_done (o : Operands) (a : Asr) (dr : Triple) (v : Extended) (t : Triple) (s : State) :
    (completeRaw o a dr v t s).done = decide (s.modeLock = .coprocessor) := rfl
@[simp] theorem completeRaw_pendingException (o : Operands) (a : Asr) (dr : Triple) (v : Extended) (t : Triple) (s : State) :
    (completeRaw o a dr v t s).pendingException = false := rfl
@[simp] theorem completeRaw_pending (o : Operands) (a : Asr) (dr : Triple) (v : Extended) (t : Triple) (s : State) :
    (completeRaw o a dr v t s).pending = (if s.modeLock = .peripheral then .nothing else pendingFor o.op3 v t) := rfl
@[simp] theorem completeRaw_statusRetry (o : Operands) (a : Asr) (dr : Triple) (v : Extended) (t : Triple) (s : State) :
    (completeRaw o a dr v t s).statusRetry = s.statusRetry := rfl
@[simp] theorem completeRaw_bus (o : Operands) (a : Asr) (dr : Triple) (v : Extended) (t : Triple) (s : State) :
    (completeRaw o a dr v t s).bus = .idle := rfl
@[simp] theorem completeRaw_inbox (o : Operands) (a : Asr) (dr : Triple) (v : Extended) (t : Triple) (s : State) :
    (completeRaw o a dr v t s).inbox = s.inbox := rfl
@[simp] theorem completeRaw_draws (o : Operands) (a : Asr) (dr : Triple) (v : Extended) (t : Triple) (s : State) :
    (completeRaw o a dr v t s).draws = s.draws + 1 := rfl

/-! ### Restarts -/

@[simp] theorem completeRestart_asr (s : State) :
    (completeRestart s).asr = { s.asr with ra := true } := rfl
@[simp] theorem completeRestart_regs (s : State) :
    (completeRestart s).regs = s.regs := rfl
@[simp] theorem completeRestart_cr (s : State) :
    (completeRestart s).cr = s.cr := rfl
@[simp] theorem completeRestart_dr (s : State) :
    (completeRestart s).dr = s.dr := rfl
@[simp] theorem completeRestart_phase (s : State) :
    (completeRestart s).phase = .cDone := rfl
@[simp] theorem completeRestart_op1In (s : State) :
    (completeRestart s).op1In = [] := rfl
@[simp] theorem completeRestart_op2In (s : State) :
    (completeRestart s).op2In = [] := rfl
@[simp] theorem completeRestart_modeLock (s : State) :
    (completeRestart s).modeLock = s.modeLock := rfl
@[simp] theorem completeRestart_pireq (s : State) :
    (completeRestart s).pireq = s.pireq := rfl
@[simp] theorem completeRestart_done (s : State) :
    (completeRestart s).done = true := rfl
@[simp] theorem completeRestart_pendingException (s : State) :
    (completeRestart s).pendingException = false := rfl
@[simp] theorem completeRestart_pending (s : State) :
    (completeRestart s).pending = restartPending (currentInstr s).operands s.dr := rfl
@[simp] theorem completeRestart_statusRetry (s : State) :
    (completeRestart s).statusRetry = s.statusRetry := rfl
@[simp] theorem completeRestart_bus (s : State) :
    (completeRestart s).bus = .idle := rfl
@[simp] theorem completeRestart_inbox (s : State) :
    (completeRestart s).inbox = s.inbox := rfl
@[simp] theorem completeRestart_draws (s : State) :
    (completeRestart s).draws = s.draws := rfl

/-! ### Answers -/

@[simp] theorem respond_asr (out : BusOut) (s : State) :
    (respond out s).asr = s.asr := rfl
@[simp] theorem respond_regs (out : BusOut) (s : State) :
    (respond out s).regs = s.regs := rfl
@[simp] theorem respond_cr (out : BusOut) (s : State) :
    (respond out s).cr = s.cr := rfl
@[simp] theorem respond_dr (out : BusOut) (s : State) :
    (respond out s).dr = s.dr := rfl
@[simp] theorem respond_phase (out : BusOut) (s : State) :
    (respond out s).phase = s.phase := rfl
@[simp] theorem respond_op1In (out : BusOut) (s : State) :
    (respond out s).op1In = s.op1In := rfl
@[simp] theorem respond_op2In (out : BusOut) (s : State) :
    (respond out s).op2In = s.op2In := rfl
@[simp] theorem respond_modeLock (out : BusOut) (s : State) :
    (respond out s).modeLock = s.modeLock := rfl
@[simp] theorem respond_pireq (out : BusOut) (s : State) :
    (respond out s).pireq = s.pireq := rfl
@[simp] theorem respond_done (out : BusOut) (s : State) :
    (respond out s).done = s.done := rfl
@[simp] theorem respond_pendingException (out : BusOut) (s : State) :
    (respond out s).pendingException = s.pendingException := rfl
@[simp] theorem respond_pending (out : BusOut) (s : State) :
    (respond out s).pending = s.pending := rfl
@[simp] theorem respond_statusRetry (out : BusOut) (s : State) :
    (respond out s).statusRetry = none := rfl
@[simp] theorem respond_bus (out : BusOut) (s : State) :
    (respond out s).bus = out := rfl
@[simp] theorem respond_inbox (out : BusOut) (s : State) :
    (respond out s).inbox = s.inbox := rfl
@[simp] theorem respond_draws (out : BusOut) (s : State) :
    (respond out s).draws = s.draws + 1 := rfl

/-! ### Ending a transaction -/

@[simp] theorem abandon_asr (s : State) :
    (abandon s).asr = s.asr := rfl
@[simp] theorem abandon_regs (s : State) :
    (abandon s).regs = s.regs := rfl
@[simp] theorem abandon_cr (s : State) :
    (abandon s).cr = s.cr := rfl
@[simp] theorem abandon_dr (s : State) :
    (abandon s).dr = s.dr := rfl
@[simp] theorem abandon_phase (s : State) :
    (abandon s).phase = .quiescent := rfl
@[simp] theorem abandon_op1In (s : State) :
    (abandon s).op1In = [] := rfl
@[simp] theorem abandon_op2In (s : State) :
    (abandon s).op2In = [] := rfl
@[simp] theorem abandon_modeLock (s : State) :
    (abandon s).modeLock = s.modeLock := rfl
@[simp] theorem abandon_pireq (s : State) :
    (abandon s).pireq = s.pireq := rfl
@[simp] theorem abandon_done (s : State) :
    (abandon s).done = false := rfl
@[simp] theorem abandon_pendingException (s : State) :
    (abandon s).pendingException = false := rfl
@[simp] theorem abandon_pending (s : State) :
    (abandon s).pending = .nothing := rfl
@[simp] theorem abandon_statusRetry (s : State) :
    (abandon s).statusRetry = s.statusRetry := rfl
@[simp] theorem abandon_bus (s : State) :
    (abandon s).bus = s.bus := rfl
@[simp] theorem abandon_inbox (s : State) :
    (abandon s).inbox = s.inbox := rfl
@[simp] theorem abandon_draws (s : State) :
    (abandon s).draws = s.draws := rfl

/-! ### Starting a transaction -/

@[simp] theorem startCommand_asr (m : Mode) (w : Word) (s : State) :
    (startCommand m w s).asr = { asrCutShort s with ra := false } := rfl
@[simp] theorem startCommand_regs (m : Mode) (w : Word) (s : State) :
    (startCommand m w s).regs = s.regs := rfl
@[simp] theorem startCommand_cr (m : Mode) (w : Word) (s : State) :
    (startCommand m w s).cr = w := rfl
@[simp] theorem startCommand_dr (m : Mode) (w : Word) (s : State) :
    (startCommand m w s).dr = s.dr := rfl
@[simp] theorem startCommand_phase (m : Mode) (w : Word) (s : State) :
    (startCommand m w s).phase = startPhase m (decode w).operands.wordsIn := rfl
@[simp] theorem startCommand_op1In (m : Mode) (w : Word) (s : State) :
    (startCommand m w s).op1In = [] := rfl
@[simp] theorem startCommand_op2In (m : Mode) (w : Word) (s : State) :
    (startCommand m w s).op2In = [] := rfl
@[simp] theorem startCommand_modeLock (m : Mode) (w : Word) (s : State) :
    (startCommand m w s).modeLock = m := rfl
@[simp] theorem startCommand_pireq (m : Mode) (w : Word) (s : State) :
    (startCommand m w s).pireq = s.pireq := rfl
@[simp] theorem startCommand_done (m : Mode) (w : Word) (s : State) :
    (startCommand m w s).done = false := rfl
@[simp] theorem startCommand_pendingException (m : Mode) (w : Word) (s : State) :
    (startCommand m w s).pendingException = false := rfl
@[simp] theorem startCommand_pending (m : Mode) (w : Word) (s : State) :
    (startCommand m w s).pending = .nothing := rfl
@[simp] theorem startCommand_statusRetry (m : Mode) (w : Word) (s : State) :
    (startCommand m w s).statusRetry = s.statusRetry := rfl
@[simp] theorem startCommand_bus (m : Mode) (w : Word) (s : State) :
    (startCommand m w s).bus = s.bus := rfl
@[simp] theorem startCommand_inbox (m : Mode) (w : Word) (s : State) :
    (startCommand m w s).inbox = s.inbox := rfl
@[simp] theorem startCommand_draws (m : Mode) (w : Word) (s : State) :
    (startCommand m w s).draws = s.draws := rfl

/-! ### The ASR after an operation -/

@[simp] theorem asrAfter_ra (a : Asr) (r : OpResult) :
    (asrAfter a r).ra = true := rfl
@[simp] theorem asrAfter_ecp (a : Asr) (r : OpResult) :
    (asrAfter a r).ecp = (r.trap.isSome || (a.ecp && !Config.ecpClearedByEachOperation)) := rfl
@[simp] theorem asrAfter_ntnc (a : Asr) (r : OpResult) :
    (asrAfter a r).ntnc = a.ntnc := rfl
@[simp] theorem asrAfter_rc (a : Asr) (r : OpResult) :
    (asrAfter a r).rc = a.rc := rfl
@[simp] theorem asrAfter_n (a : Asr) (r : OpResult) :
    (asrAfter a r).n = r.flags.n := rfl
@[simp] theorem asrAfter_z (a : Asr) (r : OpResult) :
    (asrAfter a r).z = r.flags.z := rfl
@[simp] theorem asrAfter_io (a : Asr) (r : OpResult) :
    (asrAfter a r).io = r.flags.io := rfl
@[simp] theorem asrAfter_ps (a : Asr) (r : OpResult) :
    (asrAfter a r).ps = (a.ps || r.ps) := rfl
@[simp] theorem asrAfter_csc (a : Asr) (r : OpResult) :
    (asrAfter a r).csc = true := rfl
@[simp] theorem asrAfter_uo (a : Asr) (r : OpResult) :
    (asrAfter a r).uo = r.flags.uo := rfl
@[simp] theorem asrAfter_wf (a : Asr) (r : OpResult) :
    (asrAfter a r).wf = a.wf := rfl
@[simp] theorem asrAfter_im (a : Asr) (r : OpResult) :
    (asrAfter a r).im = a.im := rfl
@[simp] theorem asrAfter_om (a : Asr) (r : OpResult) :
    (asrAfter a r).om = a.om := rfl
@[simp] theorem asrAfter_um (a : Asr) (r : OpResult) :
    (asrAfter a r).um = a.um := rfl
@[simp] theorem asrAfter_qm (a : Asr) (r : OpResult) :
    (asrAfter a r).qm = a.qm := rfl
@[simp] theorem asrAfter_pm (a : Asr) (r : OpResult) :
    (asrAfter a r).pm = a.pm := rfl
@[simp] theorem asrAfter_is (a : Asr) (r : OpResult) :
    (asrAfter a r).is = (a.is || r.is) := rfl
@[simp] theorem asrAfter_os (a : Asr) (r : OpResult) :
    (asrAfter a r).os = (a.os || r.os) := rfl
@[simp] theorem asrAfter_us (a : Asr) (r : OpResult) :
    (asrAfter a r).us = (a.us || r.us) := rfl
@[simp] theorem asrAfter_qs (a : Asr) (r : OpResult) :
    (asrAfter a r).qs = (a.qs || r.qs) := rfl
@[simp] theorem asrAfter_pr (a : Asr) (r : OpResult) :
    (asrAfter a r).pr = r.flags.pr := rfl
@[simp] theorem asrAfter_uw (a : Asr) (r : OpResult) :
    (asrAfter a r).uw = a.uw := rfl
@[simp] theorem asrAfter_fe (a : Asr) (r : OpResult) :
    (asrAfter a r).fe = a.fe := rfl

/-! ### The ASR of an operation cut short -/

@[simp] theorem mixFlags_ra (w : Word) (x a : Asr) :
    (mixFlags w x a).ra = a.ra := rfl
@[simp] theorem mixFlags_ecp (w : Word) (x a : Asr) :
    (mixFlags w x a).ecp = a.ecp := rfl
@[simp] theorem mixFlags_ntnc (w : Word) (x a : Asr) :
    (mixFlags w x a).ntnc = a.ntnc := rfl
@[simp] theorem mixFlags_rc (w : Word) (x a : Asr) :
    (mixFlags w x a).rc = a.rc := rfl
@[simp] theorem mixFlags_n (w : Word) (x a : Asr) :
    (mixFlags w x a).n = mixBit w 21 x.n a.n := rfl
@[simp] theorem mixFlags_z (w : Word) (x a : Asr) :
    (mixFlags w x a).z = mixBit w 20 x.z a.z := rfl
@[simp] theorem mixFlags_io (w : Word) (x a : Asr) :
    (mixFlags w x a).io = mixBit w 19 x.io a.io := rfl
@[simp] theorem mixFlags_ps (w : Word) (x a : Asr) :
    (mixFlags w x a).ps = mixBit w 18 x.ps a.ps := rfl
@[simp] theorem mixFlags_csc (w : Word) (x a : Asr) :
    (mixFlags w x a).csc = a.csc := rfl
@[simp] theorem mixFlags_uo (w : Word) (x a : Asr) :
    (mixFlags w x a).uo = mixBit w 16 x.uo a.uo := rfl
@[simp] theorem mixFlags_wf (w : Word) (x a : Asr) :
    (mixFlags w x a).wf = a.wf := rfl
@[simp] theorem mixFlags_im (w : Word) (x a : Asr) :
    (mixFlags w x a).im = a.im := rfl
@[simp] theorem mixFlags_om (w : Word) (x a : Asr) :
    (mixFlags w x a).om = a.om := rfl
@[simp] theorem mixFlags_um (w : Word) (x a : Asr) :
    (mixFlags w x a).um = a.um := rfl
@[simp] theorem mixFlags_qm (w : Word) (x a : Asr) :
    (mixFlags w x a).qm = a.qm := rfl
@[simp] theorem mixFlags_pm (w : Word) (x a : Asr) :
    (mixFlags w x a).pm = a.pm := rfl
@[simp] theorem mixFlags_is (w : Word) (x a : Asr) :
    (mixFlags w x a).is = mixBit w 9 x.is a.is := rfl
@[simp] theorem mixFlags_os (w : Word) (x a : Asr) :
    (mixFlags w x a).os = mixBit w 8 x.os a.os := rfl
@[simp] theorem mixFlags_us (w : Word) (x a : Asr) :
    (mixFlags w x a).us = mixBit w 7 x.us a.us := rfl
@[simp] theorem mixFlags_qs (w : Word) (x a : Asr) :
    (mixFlags w x a).qs = mixBit w 6 x.qs a.qs := rfl
@[simp] theorem mixFlags_pr (w : Word) (x a : Asr) :
    (mixFlags w x a).pr = mixBit w 5 x.pr a.pr := rfl
@[simp] theorem mixFlags_uw (w : Word) (x a : Asr) :
    (mixFlags w x a).uw = a.uw := rfl
@[simp] theorem mixFlags_fe (w : Word) (x a : Asr) :
    (mixFlags w x a).fe = a.fe := rfl

/-! ### The ASR of an aborted operation -/

@[simp] theorem mixAll_ra (w : Word) (x a : Asr) :
    (mixAll w x a).ra = a.ra := rfl
@[simp] theorem mixAll_ecp (w : Word) (x a : Asr) :
    (mixAll w x a).ecp = mixBit w 25 x.ecp a.ecp := rfl
@[simp] theorem mixAll_ntnc (w : Word) (x a : Asr) :
    (mixAll w x a).ntnc = a.ntnc := rfl
@[simp] theorem mixAll_rc (w : Word) (x a : Asr) :
    (mixAll w x a).rc = a.rc := rfl
@[simp] theorem mixAll_n (w : Word) (x a : Asr) :
    (mixAll w x a).n = mixBit w 21 x.n a.n := rfl
@[simp] theorem mixAll_z (w : Word) (x a : Asr) :
    (mixAll w x a).z = mixBit w 20 x.z a.z := rfl
@[simp] theorem mixAll_io (w : Word) (x a : Asr) :
    (mixAll w x a).io = mixBit w 19 x.io a.io := rfl
@[simp] theorem mixAll_ps (w : Word) (x a : Asr) :
    (mixAll w x a).ps = mixBit w 18 x.ps a.ps := rfl
@[simp] theorem mixAll_csc (w : Word) (x a : Asr) :
    (mixAll w x a).csc = mixBit w 17 x.csc a.csc := rfl
@[simp] theorem mixAll_uo (w : Word) (x a : Asr) :
    (mixAll w x a).uo = mixBit w 16 x.uo a.uo := rfl
@[simp] theorem mixAll_wf (w : Word) (x a : Asr) :
    (mixAll w x a).wf = a.wf := rfl
@[simp] theorem mixAll_im (w : Word) (x a : Asr) :
    (mixAll w x a).im = a.im := rfl
@[simp] theorem mixAll_om (w : Word) (x a : Asr) :
    (mixAll w x a).om = a.om := rfl
@[simp] theorem mixAll_um (w : Word) (x a : Asr) :
    (mixAll w x a).um = a.um := rfl
@[simp] theorem mixAll_qm (w : Word) (x a : Asr) :
    (mixAll w x a).qm = a.qm := rfl
@[simp] theorem mixAll_pm (w : Word) (x a : Asr) :
    (mixAll w x a).pm = a.pm := rfl
@[simp] theorem mixAll_is (w : Word) (x a : Asr) :
    (mixAll w x a).is = mixBit w 9 x.is a.is := rfl
@[simp] theorem mixAll_os (w : Word) (x a : Asr) :
    (mixAll w x a).os = mixBit w 8 x.os a.os := rfl
@[simp] theorem mixAll_us (w : Word) (x a : Asr) :
    (mixAll w x a).us = mixBit w 7 x.us a.us := rfl
@[simp] theorem mixAll_qs (w : Word) (x a : Asr) :
    (mixAll w x a).qs = mixBit w 6 x.qs a.qs := rfl
@[simp] theorem mixAll_pr (w : Word) (x a : Asr) :
    (mixAll w x a).pr = mixBit w 5 x.pr a.pr := rfl
@[simp] theorem mixAll_uw (w : Word) (x a : Asr) :
    (mixAll w x a).uw = a.uw := rfl
@[simp] theorem mixAll_fe (w : Word) (x a : Asr) :
    (mixAll w x a).fe = a.fe := rfl

/-! ### The register file -/

/-- A register written holds the value written. -/
@[simp] theorem regs_get_set_self (f : RegFile) (r : Reg) (v : Extended) : (f.set r v).get r = v := by
  cases r <;> rfl

/-- Writing a register leaves the others. -/
theorem regs_get_set_ne (f : RegFile) {r q : Reg} (v : Extended) (h : q ≠ r) : (f.set r v).get q = f.get q := by
  cases r <;> cases q <;> first | rfl | exact absurd rfl h

/-- Two register files with the same registers are the same. -/
theorem regs_ext {f g : RegFile} (h : ∀ r, f.get r = g.get r) : f = g := by
  cases f; cases g
  simp only [RegFile.mk.injEq]
  exact ⟨h .f0, h .f1, h .f2, h .f3, h .f4, h .f5, h .f6, h .f7⟩

@[simp] theorem regs_write_reg (f : RegFile) (r : Reg) (p : Prec) (v : Extended) : f.write (.reg r p) v = f.set r v := rfl
@[simp] theorem regs_write_mem (f : RegFile) (n : MemSize) (v : Extended) : f.write (.mem n) v = f := rfl
@[simp] theorem regs_write_none (f : RegFile) (v : Extended) : f.write .none v = f := rfl

/-- A register that is not the destination is never written. -/
theorem regs_write_other (f : RegFile) (d : Dst) (v : Extended) {q : Reg} (h : ∀ p, d ≠ .reg q p) :
    (f.write d v).get q = f.get q := by
  cases d with
  | reg r p => exact regs_get_set_ne f v (fun e => h p (by rw [e]))
  | mem n => rfl
  | none => rfl

end Sys2Proof.Machine
end

