-- ==== Sys2Proof/Laws/Exec.lean ====
section
/-! SUPPORT. What executing any instruction can do, said once: it answers a next state, and that state is the end of an
operation that sets CSC (`completeOperation`) or of an exempt one (`completeRaw`). -/

namespace Sys2Proof.Machine

/-- The operations that yield a result are those that are not exempt. -/
theorem operationOf_isSome (i : Instr) (s : State) : (operationOf i s).isSome = !i.exempt := by
  cases i <;> rfl

/-- An operation that sets CSC ends in `completeOperation` of its result. -/
theorem exec_operation {i : Instr} {s : State} {r : OpResult} (h : operationOf i s = some r) :
    exec i s = .next (completeOperation i.operands (keepsDr i) r s) := by
  cases i <;> first
    | (obtain rfl := Option.some.inj h; rfl)
    | cases h

/-- An exempt operation ends in `completeRaw`; but for WRASR it changes no ASR bit other than RA. -/
theorem exec_exempt {i : Instr} (s : State) (h : i.exempt = true) :
    ∃ a dr v t, exec i s = .next (completeRaw i.operands a dr v t s)
      ∧ (a = asrCompleted s.asr ∨ ∃ o, i = .wrasr o ∧ a = Asr.ofWord (lastWordOp1 o s)) := by
  cases i <;> first
    | exact ⟨_, _, _, _, rfl, .inl rfl⟩
    | exact ⟨_, _, _, _, rfl, .inr ⟨_, rfl, rfl⟩⟩
    | cases h

/-- Everything executing an instruction can do. -/
theorem exec_cases (i : Instr) (s : State) :
    (∃ r, operationOf i s = some r ∧ exec i s = .next (completeOperation i.operands (keepsDr i) r s))
    ∨ (i.exempt = true ∧ ∃ a dr v t, exec i s = .next (completeRaw i.operands a dr v t s)
        ∧ (a = asrCompleted s.asr ∨ ∃ o, i = .wrasr o ∧ a = Asr.ofWord (lastWordOp1 o s))) := by
  cases h : i.exempt with
  | true => exact .inr ⟨rfl, exec_exempt s h⟩
  | false =>
    have hs : (operationOf i s).isSome = true := by rw [operationOf_isSome, h]; rfl
    obtain ⟨r, hr⟩ := Option.isSome_iff_exists.mp hs
    exact .inl ⟨r, hr, exec_operation hr⟩

/-- Everything the end of an operation can do: take the exception the result signals, or deliver the result. -/
theorem completeOperation_cases (o : Operands) (k : Bool) (r : OpResult) (s : State) :
    (∃ info, r.trap = some info ∧ completeOperation o k r s = raiseException r info s)
    ∨ (r.trap = none ∧ completeOperation o k r s = deliverResult o k r s) := by
  unfold completeOperation
  cases r.trap with
  | some info => exact .inl ⟨info, rfl, rfl⟩
  | none => exact .inr ⟨rfl, rfl⟩

/-- What is the same at the end of every operation, whether it signals an exception or delivers a result. -/
theorem completeOperation_common (o : Operands) (k : Bool) (r : OpResult) (s : State) :
    (completeOperation o k r s).asr = asrAfter s.asr r
    ∧ (completeOperation o k r s).cr = s.cr
    ∧ (completeOperation o k r s).phase = (if s.modeLock = .peripheral then .quiescent else .cDone)
    ∧ (completeOperation o k r s).op1In = [] ∧ (completeOperation o k r s).op2In = []
    ∧ (completeOperation o k r s).modeLock = s.modeLock
    ∧ (completeOperation o k r s).pireq = (s.pireq || decide (s.modeLock = .peripheral))
    ∧ (completeOperation o k r s).done = decide (s.modeLock = .coprocessor)
    ∧ (completeOperation o k r s).statusRetry = s.statusRetry
    ∧ (completeOperation o k r s).bus = .idle ∧ (completeOperation o k r s).inbox = s.inbox
    ∧ (completeOperation o k r s).draws = s.draws + 1 := by
  rcases completeOperation_cases o k r s with ⟨info, -, h⟩ | ⟨-, h⟩ <;> rw [h] <;> simp

/-- A pending exception at the end of an operation: coprocessor mode and a signalled exception. -/
theorem completeOperation_pending (o : Operands) (k : Bool) (r : OpResult) (s : State) :
    (completeOperation o k r s).pendingException = (r.trap.isSome && decide (s.modeLock = .coprocessor))
    ∧ (completeOperation o k r s).pending =
      (if r.trap.isSome ∨ s.modeLock = .peripheral then .nothing else pendingFor o.op3 r.reg r.image) := by
  rcases completeOperation_cases o k r s with ⟨info, ht, h⟩ | ⟨ht, h⟩ <;> rw [h] <;> simp [ht]

/-- The registers after an operation: a register destination is written in peripheral mode, when nothing is signalled. -/
theorem completeOperation_regs (o : Operands) (k : Bool) (r : OpResult) (s : State) :
    (completeOperation o k r s).regs =
      (if r.trap = none ∧ s.modeLock = .peripheral then s.regs.write o.op3 r.reg else s.regs) := by
  rcases completeOperation_cases o k r s with ⟨info, ht, h⟩ | ⟨ht, h⟩ <;> rw [h] <;> simp [ht, regsAfter]

/-- Every instruction answers a next state. -/
theorem exec_next (i : Instr) (s : State) : ∃ t, exec i s = .next t := by
  rcases exec_cases i s with ⟨r, -, h⟩ | ⟨-, a, dr, v, t, h, -⟩
  · exact ⟨_, h⟩
  · exact ⟨_, h⟩

/-- What every instruction leaves alone or does alike. -/
theorem exec_common {i : Instr} {s t : State} (h : exec i s = .next t) :
    t.cr = s.cr ∧ t.modeLock = s.modeLock ∧ t.statusRetry = s.statusRetry ∧ t.inbox = s.inbox
    ∧ t.phase = (if s.modeLock = .peripheral then .quiescent else .cDone)
    ∧ t.op1In = [] ∧ t.op2In = []
    ∧ t.pireq = (s.pireq || decide (s.modeLock = .peripheral))
    ∧ t.done = decide (s.modeLock = .coprocessor) ∧ t.bus = .idle ∧ t.draws = s.draws + 1 := by
  rcases exec_cases i s with ⟨r, -, hr⟩ | ⟨-, a, dr, v, u, hr, -⟩
  · obtain rfl : completeOperation i.operands (keepsDr i) r s = t := by simpa [hr] using h
    obtain ⟨-, h2, h3, h4, h5, h6, h7, h8, h9, h10, h11, h12⟩ := completeOperation_common i.operands (keepsDr i) r s
    exact ⟨h2, h6, h9, h11, h3, h4, h5, h7, h8, h10, h12⟩
  · obtain rfl : completeRaw i.operands a dr v u s = t := by simpa [hr] using h
    simp

end Sys2Proof.Machine
end

