-- ==== Sys2Proof/Laws/Ops.lean ====
section
/-! SUPPORT. One lemma per shared operation that says everything it can do, to be cited instead of unfolding it: words of a
triple, the fault image, the Table 5-7 actions, `Finish`, the operand latches. -/

namespace Sys2Proof.Machine

/-! ### Words of a triple -/

/-- The most significant word of a left-justified image. -/
@[simp] theorem tripleWord_zero (w : Word) (t : BitVec 64) : tripleWord (w ++ t) 0 = w := by
  simp only [tripleWord]
  ext k hk
  simp only [BitVec.getElem_extractLsb', BitVec.getLsbD_append]
  rw [if_neg (by omega), show 64 + k - 64 = k by omega, BitVec.getLsbD_eq_getElem]

/-- The three words of a triple. -/
theorem tripleWord_triple (w0 w1 w2 : Word) :
    tripleWord (w0 ++ w1 ++ w2) 0 = w0 ∧ tripleWord (w0 ++ w1 ++ w2) 1 = w1 ∧ tripleWord (w0 ++ w1 ++ w2) 2 = w2 := by
  refine ⟨?_, ?_, ?_⟩ <;> simp only [tripleWord] <;> ext k hk <;>
    simp only [BitVec.getElem_extractLsb', BitVec.getLsbD_append]
  · rw [if_neg (by omega), if_neg (by omega), show 64 + k - 32 - 32 = k by omega, BitVec.getLsbD_eq_getElem]
  · rw [if_neg (by omega), if_pos (by omega), show 32 + k - 32 = k by omega, BitVec.getLsbD_eq_getElem]
  · rw [if_pos (by omega), show 0 + k = k by omega, BitVec.getLsbD_eq_getElem]

/-! ### Replacing the sign -/

/-- Replacing the sign leaves the exponent field, the significand and with them the class. -/
theorem extWithSign_fields (neg : Bool) (v : Extended) :
    (extWithSign neg v).extractLsb' 64 15 = v.extractLsb' 64 15
    ∧ (extWithSign neg v).extractLsb' 0 64 = v.extractLsb' 0 64
    ∧ (extWithSign neg v).getLsbD 62 = v.getLsbD 62 := by
  unfold extWithSign
  refine ⟨?_, ?_, ?_⟩
  · ext k hk
    simp only [BitVec.getElem_extractLsb', BitVec.getLsbD_append, BitVec.getLsbD_extractLsb']
    rw [if_pos (by omega), decide_eq_true (by omega), Bool.true_and, Nat.zero_add]
  · ext k hk
    simp only [BitVec.getElem_extractLsb', BitVec.getLsbD_append, BitVec.getLsbD_extractLsb']
    rw [if_pos (by omega), decide_eq_true (by omega), Bool.true_and, Nat.zero_add]
  · simp only [BitVec.getLsbD_append, BitVec.getLsbD_extractLsb']
    rfl

/-- The sign of a pattern whose sign was replaced. -/
@[simp] theorem extWithSign_sign (neg : Bool) (v : Extended) : extSign (extWithSign neg v) = neg := by
  simp only [extSign, extWithSign, BitVec.getLsbD_append]
  simp

/-- The class of a pattern whose sign was replaced. -/
@[simp] theorem extWithSign_classify (neg : Bool) (v : Extended) : classify (extWithSign neg v) = classify v := by
  obtain ⟨h1, h2, h3⟩ := extWithSign_fields neg v
  unfold classify extExponent extSignificand
  rw [h1, h2, h3]

/-! ### The fault image -/

/-- Sign, exponent and significand of a fault image. -/
theorem faultImage_fields (lgrs : BitVec 4) (gap : BitVec 10) (neg : Bool) (e : BitVec 17) (sig : BitVec 64) :
    (faultImage lgrs gap neg e sig).getLsbD 81 = neg
    ∧ (faultImage lgrs gap neg e sig).extractLsb' 64 17 = e
    ∧ (faultImage lgrs gap neg e sig).extractLsb' 0 64 = sig
    ∧ (faultImage lgrs gap neg e sig).extractLsb' 92 4 = lgrs := by
  unfold faultImage
  refine ⟨?_, ?_, ?_, ?_⟩
  · simp only [BitVec.getLsbD_append]
    rw [if_neg (by omega), if_neg (by omega), if_pos (by omega)]
    simp
  · ext k hk
    simp only [BitVec.getElem_extractLsb', BitVec.getLsbD_append]
    rw [if_neg (by omega), if_pos (by omega), show 64 + k - 64 = k by omega, BitVec.getLsbD_eq_getElem]
  · ext k hk
    simp only [BitVec.getElem_extractLsb', BitVec.getLsbD_append]
    rw [if_pos (by omega), show 0 + k = k by omega, BitVec.getLsbD_eq_getElem]
  · ext k hk
    simp only [BitVec.getElem_extractLsb', BitVec.getLsbD_append]
    rw [if_neg (by omega), if_neg (by omega), if_neg (by omega), if_neg (by omega),
      show 92 + k - 64 - 17 - 1 - 10 = k by omega, BitVec.getLsbD_eq_getElem]

/-! ### The actions -/

/-- Everything an invalid operation can yield: IS and the generated NaN, or IS and the exception. -/
theorem invalidOperation_cases (o : Operands) (s : State) (info : TrapInfo) :
    (invalidEnabled s.asr = false
      ∧ invalidOperation o s info = { deliverDatum o s .generatedNan with is := true })
    ∨ (invalidEnabled s.asr = true ∧ invalidOperation o s info =
        { deliverDatum o s .generatedNan with is := true, flags := trappedFlags s.draws, trap := some info }) := by
  unfold invalidOperation
  cases invalidEnabled s.asr
  · exact .inl ⟨rfl, rfl⟩
  · exact .inr ⟨rfl, rfl⟩

/-- Everything a division by zero can yield: QS and an infinity, or QS and the exception. -/
theorem divideByZero_cases (o : Operands) (s : State) (a b : Extended) :
    (s.asr.qm = false ∧ divideByZero o s a b =
      { deliverDatum o s (.infinity (extSign a != extSign b)) with qs := true })
    ∨ (s.asr.qm = true ∧ divideByZero o s a b =
      { deliverDatum o s (.infinity (extSign a != extSign b)) with
        qs := true, flags := trappedFlags s.draws, trap := some (.operand b) }) := by
  simp only [divideByZero]
  cases s.asr.qm
  · exact .inl ⟨rfl, rfl⟩
  · exact .inr ⟨rfl, rfl⟩

/-- Everything delivering an operand can yield, by its class. -/
theorem deliverOperand_cases (o : Operands) (s : State) (v : Extended) :
    (classify v = .infinity ∧ deliverOperand o s v = deliverDatum o s (.infinity (extSign v)))
    ∨ (isNan v = true ∧ deliverOperand o s v = deliverDatum o s (.nan (extSign v) (extJ v) (extFraction v)))
    ∨ (isZero v = true ∧ deliverOperand o s v = deliverDatum o s (.zero (extSign v)))
    ∨ (classify v = .normal ∧ deliverOperand o s v = deliverNumber o s v) := by
  unfold deliverOperand isNan isZero
  cases classify v <;> simp

/-- Everything delivering a number can yield: `Finish` of its value, with the pattern itself as the result where a
double-extended destination would else give exponent field 0 up. -/
theorem deliverNumber_cases (o : Operands) (s : State) (v : Extended) :
    (isFieldZeroNormal v = true ∧ destPrec o s = .extended
      ∧ deliverNumber o s v = { deliverExact o s (extValue v) with reg := v, image := patternImage o s v })
    ∨ (¬ (isFieldZeroNormal v = true ∧ destPrec o s = .extended)
      ∧ deliverNumber o s v = deliverExact o s (extValue v)) := by
  unfold deliverNumber
  by_cases h : isFieldZeroNormal v = true ∧ destPrec o s = .extended
  · exact .inl ⟨h.1, h.2, if_pos h⟩
  · exact .inr ⟨h, if_neg h⟩

/-- Every operand has one of four kinds. -/
theorem classify_cases (v : Extended) :
    classify v = .infinity ∨ isNan v = true ∨ isZero v = true ∨ classify v = .normal := by
  unfold isNan isZero
  cases classify v <;> simp

/-- A conversion's inexact condition: PS, and the exception with an unspecified DR when PM is 1. -/
theorem convertedInexact_cases (s : State) (inexact : Bool) (flags : CondFlags) (image : Triple) :
    ((inexact && s.asr.pm) = false
      ∧ convertedInexact s inexact flags image = convertedResult s false inexact flags none image)
    ∨ ((inexact && s.asr.pm) = true ∧ convertedInexact s inexact flags image =
        convertedResult s false true (trappedFlags s.draws) (some .unspecified) image) := by
  unfold convertedInexact
  cases (inexact && s.asr.pm)
  · exact .inl ⟨rfl, rfl⟩
  · exact .inr ⟨rfl, rfl⟩

/-! ### Finish -/

/-- The inexact condition of `Finish`. -/
theorem finishInexact_cases (asr : Asr) (inexact os us : Bool) (info : TrapInfo) (r : Datum) :
    ((inexact && asr.pm) = false ∧ finishInexact asr inexact os us info r = ⟨os, us, inexact, none, r⟩)
    ∨ ((inexact && asr.pm) = true ∧ finishInexact asr inexact os us info r = ⟨os, us, inexact, some info, r⟩) := by
  unfold finishInexact
  cases (inexact && asr.pm)
  · exact .inl ⟨rfl, rfl⟩
  · exact .inr ⟨rfl, rfl⟩

/-- Everything `Finish` of a magnitude that is not zero can do: overflow, underflow, or a result in range. -/
theorem finish_cases (asr : Asr) (p : Prec) (rc : RoundMode) (forced : Bool) (z : Exact)
    (hz : z.mant ≠ 0 ∨ z.sticky = true) :
    let q := unitOf p z
    let u := roundAt rc q z
    let utop := (u.log2 : Int) + q
    (precEmax p < utop ∧ asr.om = true ∧ finish asr p rc forced z =
        ⟨true, false, false, some (.rounded z.neg utop (leftJustify u) (lgrsAt q z)), .zero z.neg⟩)
    ∨ (precEmax p < utop ∧ asr.om = false ∧ finish asr p rc forced z =
        finishInexact asr true true false (.inexact (overflowValue p rc z.neg) p false (some (lgrsAt q z)))
          (overflowValue p rc z.neg))
    ∨ (utop ≤ precEmax p ∧ z.top < precEmin p ∧ utop < precEmin p ∧ asr.um = true ∧
        finish asr p rc forced z =
          ⟨false, true, false, some (.rounded z.neg utop (leftJustify u) (lgrsAt q z)), .zero z.neg⟩)
    ∨ (utop ≤ precEmax p ∧ z.top < precEmin p ∧ utop < precEmin p ∧ asr.um = false ∧
        finish asr p rc forced z =
          finishInexact asr (!z.exactAt (precLeast p) || forced) false (!z.exactAt (precLeast p))
            (.inexact (datumOf z.neg (roundAt rc (precLeast p) z) (precLeast p)) p (!z.exactAt (precLeast p))
              (some (lgrsAt (precLeast p) z)))
            (datumOf z.neg (roundAt rc (precLeast p) z) (precLeast p)))
    ∨ (utop ≤ precEmax p ∧ (precEmin p ≤ z.top ∨ precEmin p ≤ utop) ∧ finish asr p rc forced z =
        finishInexact asr (!z.exactAt q || forced) false false
          (.inexact (.finite z.neg u q) p false (some (lgrsAt q z))) (.finite z.neg u q)) := by
  intro q u utop
  have h0 : ¬ ((z.mant = 0 && !z.sticky) = true) := by
    rcases hz with h | h <;> simp [h]
  by_cases h1 : precEmax p < utop
  · cases h2 : asr.om
    · refine .inr (.inl ⟨h1, rfl, ?_⟩)
      unfold finish
      rw [if_neg h0]
      simp only [h2]
      exact if_pos h1
    · refine .inl ⟨h1, rfl, ?_⟩
      unfold finish
      rw [if_neg h0]
      simp only [h2]
      exact if_pos h1
  · by_cases h3 : z.top < precEmin p ∧ utop < precEmin p
    · cases h4 : asr.um
      · refine .inr (.inr (.inr (.inl ⟨not_lt.mp h1, h3.1, h3.2, rfl, ?_⟩)))
        unfold finish
        rw [if_neg h0]
        simp only [h4]
        exact (if_neg h1).trans (if_pos h3)
      · refine .inr (.inr (.inl ⟨not_lt.mp h1, h3.1, h3.2, rfl, ?_⟩))
        unfold finish
        rw [if_neg h0]
        simp only [h4]
        exact (if_neg h1).trans (if_pos h3)
    · refine .inr (.inr (.inr (.inr ⟨not_lt.mp h1, by omega, ?_⟩)))
      unfold finish
      rw [if_neg h0]
      exact (if_neg h1).trans (if_neg h3)

/-- `Finish` of a zero: the same zero, inexact only when forced. -/
theorem finish_zero (asr : Asr) (p : Prec) (rc : RoundMode) (forced neg : Bool) (e : Int) :
    finish asr p rc forced ⟨neg, 0, e, false⟩
      = finishInexact asr forced false false (.inexact (.zero neg) p false none) (.zero neg) := rfl

/-! ### REM's partial steps -/

/-- Everything a partial step can leave: a remainder smaller than the dividend that the destination holds exactly. -/
theorem remStop_some {p : Prec} {a b : Extended} {e r : Int} (h : remStop p a b e = some r) :
    (extValue a).floorAt e < (extValue b).floorAt e ∧ r.natAbs < (extValue b).floorAt e
    ∧ (r = 0 ∨ representable p (Exact.ofInt r e) = true)
    ∧ ∃ n : Int, r = (extValue b).toIntAt e - n * (extValue a).toIntAt e := by
  unfold remStop at h
  by_cases hle : (extValue b).floorAt e ≤ (extValue a).floorAt e
  · rw [if_pos hle] at h
    cases h
  · rw [if_neg hle] at h
    revert h
    cases Config.remStep a b with
    | none => simp
    | some n =>
      intro h
      simp only [partialRemainder] at h
      split at h
      · rename_i hc
        obtain rfl := Option.some.inj h
        exact ⟨not_le.mp hle, hc.1, hc.2, n, rfl⟩
      · cases h

/-! ### Enclosures of the transcendental functions -/

/-- The ends of a series are in order, and neither 0 nor beyond 1. -/
theorem seriesEnds_ordered (c : Nat) :
    2 ^ 100 ≤ (seriesEnds c).1 ∧ (seriesEnds c).1 < (seriesEnds c).2 ∧ (seriesEnds c).2 ≤ 2 ^ seriesBits := by
  simp only [seriesEnds, seriesBits, seriesSlack]
  omega

/-- The ends of an enclosure are in order and the lower one has more bits than any destination keeps. -/
theorem trigEnclosure_ordered (fn : TrigFn) (x : Exact) (hx : 0 < x.mant) (he : x.exp ≤ 0) :
    2 ^ 68 ≤ (trigEnclosure fn x).1 ∧ (trigEnclosure fn x).1 < (trigEnclosure fn x).2.1 := by
  obtain ⟨h1, h2, -⟩ := seriesEnds_ordered (seriesUnits fn x)
  have h3 : 2 ^ 100 ≤ x.mant * (seriesEnds (seriesUnits fn x)).1 := le_trans h1 (Nat.le_mul_of_pos_left _ hx)
  have h4 := Nat.mul_lt_mul_of_pos_left h2 hx
  have h5 : 2 ^ 192 ≤ 2 ^ (seriesBits - x.exp).toNat :=
    Nat.pow_le_pow_right (by norm_num) (by simp only [seriesBits]; omega)
  cases fn <;> simp only [trigEnclosure] <;> omega

/-! ### Data accesses -/

/-- A word fetch supplies its word. -/
@[simp] theorem fetchedWord_word (w : Word) (s : State) : fetchedWord w 0b100 s = some w := rfl

/-- A word write drives the next result word. -/
@[simp] theorem drivenWord_word (k : Nat) (s : State) : drivenWord 0b100 k s = some (resultWord k s) := rfl

/-- Everything an awaited data fetch can do to the transaction: latch and count a word, or nothing. -/
theorem acceptFetch_cases (word : Option Word) (k : Nat) (s : State) :
    (word = none ∧ acceptFetch word k s = s) ∨ ∃ v, word = some v ∧ acceptFetch word k s = coprocOperand v k s := by
  cases word with
  | none => exact .inl ⟨rfl, rfl⟩
  | some v => exact .inr ⟨v, rfl, rfl⟩

/-- Everything an awaited data write can do to the transaction: count a word, set WF with FE = 1, or nothing. -/
theorem acceptWrite_cases (word : Option Word) (ok : Bool) (k : Nat) (s : State) :
    (word = none ∧ acceptWrite word ok k s = s)
    ∨ (word.isSome = true ∧ ok = true ∧ acceptWrite word ok k s = wordWritten k s)
    ∨ (word.isSome = true ∧ ok = false
        ∧ acceptWrite word ok k s = { s with asr := { s.asr with wf := s.asr.wf || s.asr.fe } }) := by
  cases word with
  | none => exact .inl ⟨rfl, rfl⟩
  | some v =>
    cases ok
    · exact .inr (.inr ⟨rfl, rfl, rfl⟩)
    · exact .inr (.inl ⟨rfl, rfl, rfl⟩)

/-! ### The operand latches -/

/-- Everything latching an operand word can do. -/
theorem latchWord_cases (w : Word) (s : State) :
    (s.op1In.length < (currentInstr s).operands.op1.words ∧ latchWord w s = { s with op1In := s.op1In ++ [w] })
    ∨ ((currentInstr s).operands.op1.words ≤ s.op1In.length ∧ latchWord w s = { s with op2In := s.op2In ++ [w] }) := by
  unfold latchWord
  by_cases h : s.op1In.length < (currentInstr s).operands.op1.words
  · exact .inl ⟨h, if_pos h⟩
  · exact .inr ⟨not_lt.mp h, if_neg h⟩

/-- A latched word changes nothing but the latches. -/
theorem latchWord_frame (w : Word) (s : State) :
    latchWord w s = { s with op1In := (latchWord w s).op1In, op2In := (latchWord w s).op2In } := by
  rcases latchWord_cases w s with ⟨-, h⟩ | ⟨-, h⟩ <;> rw [h]

/-- A state that awaits its last word is ready when the word is latched; another awaits one word less. -/
theorem latchWord_awaiting {k : Nat} {s : State} (w : Word) (h : awaiting k s) :
    (k ≤ 1 → operandsReady (latchWord w s) = true) ∧ (1 < k → awaiting (k - 1) (latchWord w s)) := by
  obtain ⟨h0, h1, h2, h3, h4⟩ := h
  have hw : (currentInstr s).operands.wordsIn
      = (currentInstr s).operands.op1.words + (currentInstr s).operands.op2.words := rfl
  have hc : currentInstr (latchWord w s) = currentInstr s := by rw [latchWord_frame]; rfl
  rcases latchWord_cases w s with ⟨hl, e⟩ | ⟨hl, e⟩
  · have h5 : s.op2In = [] := h3.resolve_right (by omega)
    have h6 : s.op2In.length = 0 := by rw [h5]; rfl
    refine ⟨fun hk => ?_, fun hk => ?_⟩
    · simp only [operandsReady, hc]
      simp only [e, List.length_append, List.length_singleton, Bool.and_eq_true, beq_iff_eq]
      omega
    · unfold awaiting
      rw [hc]
      simp only [e, List.length_append, List.length_singleton]
      exact ⟨by omega, by omega, by omega, .inl h5, by omega⟩
  · refine ⟨fun hk => ?_, fun hk => ?_⟩
    · simp only [operandsReady, hc]
      simp only [e, List.length_append, List.length_singleton, Bool.and_eq_true, beq_iff_eq]
      omega
    · unfold awaiting
      rw [hc]
      simp only [e, List.length_append, List.length_singleton]
      exact ⟨by omega, by omega, by omega, .inr (by omega), by omega⟩

end Sys2Proof.Machine
end

