-- ==== Sys2Proof/Laws/PerInstr.lean ====
section
/-! SUPPORT. Facts about the instructions as syntax, one lemma per constructor: family `OpcodeField`, that the opcode
field of an encoded instruction is its opcode and that the opcode names it (spec/30_encoding.md R140, R150). -/

namespace Sys2Proof

/-- Bits 14-10 of a packed command word are the opcode. -/
theorem packCommand_opcode (rb1 rb2 rb3 rcs : Bool) (rc : BitVec 2) (opcode : BitVec 5) (s1 s2 : BitVec 3)
    (s3 : BitVec 4) : (packCommand rb1 rb2 rb3 rcs rc opcode s1 s2 s3).extractLsb' 10 5 = opcode := by
  unfold packCommand
  ext k hk
  simp only [BitVec.getElem_extractLsb', BitVec.getLsbD_append]
  rw [if_neg (by omega), if_neg (by omega), if_neg (by omega), if_pos (by omega)]
  rw [show 10 + k - 4 - 3 - 3 = k by omega, BitVec.getLsbD_eq_getElem]

/-- Bits 14-10 of an encoded instruction are its opcode. -/
theorem encode_opcode (i : Instr) : (encode i).extractLsb' 10 5 = i.opcode := packCommand_opcode ..

namespace Laws.OpcodeField

/-- The opcode field of the encoding is the opcode, and the opcode with the operands names the instruction. -/
def Statement (i : Instr) : Prop :=
  (encode i).extractLsb' 10 5 = i.opcode ∧ instrOfOpcode i.opcode.toNat i.operands = i

theorem reserved00 (o : Operands) : Statement (.reserved00 o) := ⟨encode_opcode _, rfl⟩
theorem reserved01 (o : Operands) : Statement (.reserved01 o) := ⟨encode_opcode _, rfl⟩
theorem add (o : Operands) : Statement (.add o) := ⟨encode_opcode _, rfl⟩
theorem sub (o : Operands) : Statement (.sub o) := ⟨encode_opcode _, rfl⟩
theorem div (o : Operands) : Statement (.div o) := ⟨encode_opcode _, rfl⟩
theorem rem (o : Operands) : Statement (.rem o) := ⟨encode_opcode _, rfl⟩
theorem mul (o : Operands) : Statement (.mul o) := ⟨encode_opcode _, rfl⟩
theorem move (o : Operands) : Statement (.move o) := ⟨encode_opcode _, rfl⟩
theorem rdasr (o : Operands) : Statement (.rdasr o) := ⟨encode_opcode _, rfl⟩
theorem wrasr (o : Operands) : Statement (.wrasr o) := ⟨encode_opcode _, rfl⟩
theorem cmp (o : Operands) : Statement (.cmp o) := ⟨encode_opcode _, rfl⟩
theorem cmpe (o : Operands) : Statement (.cmpe o) := ⟨encode_opcode _, rfl⟩
theorem abs (o : Operands) : Statement (.abs o) := ⟨encode_opcode _, rfl⟩
theorem sqrt (o : Operands) : Statement (.sqrt o) := ⟨encode_opcode _, rfl⟩
theorem rtoi (o : Operands) : Statement (.rtoi o) := ⟨encode_opcode _, rfl⟩
theorem ftoi (o : Operands) : Statement (.ftoi o) := ⟨encode_opcode _, rfl⟩
theorem itof (o : Operands) : Statement (.itof o) := ⟨encode_opcode _, rfl⟩
theorem dtof (o : Operands) : Statement (.dtof o) := ⟨encode_opcode _, rfl⟩
theorem ftod (o : Operands) : Statement (.ftod o) := ⟨encode_opcode _, rfl⟩
theorem nop (o : Operands) : Statement (.nop o) := ⟨encode_opcode _, rfl⟩
theorem erof (o : Operands) : Statement (.erof o) := ⟨encode_opcode _, rfl⟩
theorem reserved15 (o : Operands) : Statement (.reserved15 o) := ⟨encode_opcode _, rfl⟩
theorem reserved16 (o : Operands) : Statement (.reserved16 o) := ⟨encode_opcode _, rfl⟩
theorem neg (o : Operands) : Statement (.neg o) := ⟨encode_opcode _, rfl⟩
theorem ldr (o : Operands) : Statement (.ldr o) := ⟨encode_opcode _, rfl⟩
theorem reserved19 (o : Operands) : Statement (.reserved19 o) := ⟨encode_opcode _, rfl⟩
theorem cmps (o : Operands) : Statement (.cmps o) := ⟨encode_opcode _, rfl⟩
theorem cmpes (o : Operands) : Statement (.cmpes o) := ⟨encode_opcode _, rfl⟩
theorem sin (o : Operands) : Statement (.sin o) := ⟨encode_opcode _, rfl⟩
theorem cos (o : Operands) : Statement (.cos o) := ⟨encode_opcode _, rfl⟩
theorem atan (o : Operands) : Statement (.atan o) := ⟨encode_opcode _, rfl⟩
theorem pi (o : Operands) : Statement (.pi o) := ⟨encode_opcode _, rfl⟩

end Laws.OpcodeField

end Sys2Proof
end

