-- ==== Sys2Proof/Laws/Values.lean ====
section
/-! SUPPORT. The real value of a double-extended pattern and the exact value the machine works on. -/

namespace Sys2Proof.Machine

/-- A sign factor has magnitude 1. -/
theorem abs_signFactor (neg : Bool) : |signFactor neg| = 1 := by cases neg <;> simp [signFactor]

/-- The magnitude of the exact value is the magnitude of the real value. -/
theorem abs_extReal (v : Extended) : |extReal v| = magnitude (extValue v) := by
  have h2 : ((max (v.extractLsb' 64 15).toNat 1 : ℤ))
      = ((if (v.extractLsb' 64 15).toNat = 0 then 1 else (v.extractLsb' 64 15).toNat : ℕ) : ℤ) := by
    split <;> omega
  unfold extReal magnitude extValue extSignificand extExponent
  rw [abs_mul, abs_mul, abs_signFactor, one_mul, abs_of_nonneg (by positivity), abs_of_nonneg (by positivity)]
  simp only []
  rw [← h2, div_eq_mul_inv, ← zpow_neg, mul_assoc, ← zpow_add₀ (by norm_num)]
  congr 2
  ring

/-- The sign of the exact value of a number that is not 0. -/
theorem extValue_neg (v : Extended) (h : extReal v ≠ 0) : (extValue v).neg = true ↔ extReal v < 0 := by
  have hp : 0 ≤ ((v.extractLsb' 0 64).toNat : ℝ) / (2 : ℝ) ^ (63 : ℤ)
      * (2 : ℝ) ^ ((max (v.extractLsb' 64 15).toNat 1 : ℤ) - 16383) := by positivity
  rw [extReal, mul_assoc] at h ⊢
  change v.getLsbD 79 = true ↔ _
  cases v.getLsbD 79 <;> simp only [signFactor] at *
  · simp only [Bool.false_eq_true, if_false, false_iff, not_lt, one_mul]
    exact hp
  · simp only [if_true, true_iff]
    have := lt_of_le_of_ne hp (by intro h0; apply h; rw [← h0]; simp)
    linarith

/-- The exact value of a finite pattern stands for its real value. -/
theorem standsFor_extValue (v : Extended) : standsFor (extValue v) (extReal v) := by
  refine ⟨?_, extValue_neg v⟩
  change (if false = true then _ else _)
  rw [if_neg (by simp)]
  exact abs_extReal v

/-- Clearing the sign gives the absolute value. -/
theorem extReal_clearSign (v : Extended) : extReal (extWithSign false v) = |extReal v| := by
  obtain ⟨h1, h2, -⟩ := extWithSign_fields false v
  have h4 : (extWithSign false v).getLsbD 79 = false := extWithSign_sign false v
  unfold extReal
  rw [h1, h2, h4, abs_mul, abs_mul, abs_signFactor]
  simp only [signFactor]
  rw [abs_of_nonneg (by positivity), abs_of_nonneg (by positivity)]
  simp

/-- Complementing the sign gives the negative. -/
theorem extReal_flipSign (v : Extended) : extReal (extWithSign (!extSign v) v) = -extReal v := by
  obtain ⟨h1, h2, -⟩ := extWithSign_fields (!extSign v) v
  have h4 : (extWithSign (!extSign v) v).getLsbD 79 = !extSign v := extWithSign_sign _ v
  unfold extReal
  rw [h1, h2, h4]
  unfold extSign
  cases v.getLsbD 79 <;> simp [signFactor]

end Sys2Proof.Machine
end

