-- ==== Sys2Proof/Tests/Slice0.lean ====
section
/-! SUPPORT. Small tests: well-formedness, the words the spec writes out, one or two results per instruction with the expected
values of spec/95_test_vectors.md, bus events; and for each obligation with hypotheses a state and operands that meet
them. Register destinations carry the widened pattern of the vector's single-precision result. -/

namespace Sys2Proof.Machine

-- One thread: each kernel evaluation in flight would reserve a stack of its own.
set_option Elab.async false

/-! ### Well-formedness: each check refuses an ill-formed command -/

/-- ADD without an Op1. -/
theorem test_op1_check : (Instr.add ⟨.none, .reg .f1, .reg .f2 .double, none⟩).op1Ok = false := by decide
/-- MOVE with an Op2 it does not use. -/
theorem test_op2_check : (Instr.move ⟨.mem .one, .reg .f1, .reg .f0 .single, none⟩).op2Ok = false := by decide
/-- CMP with a destination. -/
theorem test_op3_check : (Instr.cmp ⟨.mem .one, .mem .one, .mem .one, none⟩).op3Ok = false := by decide
/-- LDR of one word. -/
theorem test_shape_check : (Instr.ldr ⟨.mem .one, .none, .none, none⟩).shapeOk = false := by decide
/-- RDASR to a register. -/
theorem test_shape_check_rdasr : (Instr.rdasr ⟨.none, .none, .reg .f0 .single, none⟩).shapeOk = false := by decide
/-- FTOD to two words. -/
theorem test_shape_check_ftod : (Instr.ftod ⟨.reg .f0, .none, .mem .two, none⟩).shapeOk = false := by decide
theorem test_ill_formed : (Instr.add ⟨.none, .reg .f1, .reg .f2 .double, none⟩).wellFormed = false := by decide
theorem test_well_formed : (Instr.add ⟨.reg .f0, .reg .f1, .reg .f2 .double, none⟩).wellFormed = true := by decide

/-! ### Decoding: words of spec/95_test_vectors.md section 2 -/

theorem test_decode_arithmetic :
    decode 0x00000816 = .add ⟨.reg .f0, .reg .f1, .reg .f2 .double, none⟩
    ∧ decode 0x001C09BB = .add ⟨.reg .f7, .reg .f7, .reg .f7 .extended, none⟩
    ∧ decode 0x00000E95 = .sub ⟨.mem .two, .reg .f1, .reg .f1 .double, none⟩
    ∧ decode 0x00029801 = .mul ⟨.reg .f0, .reg .f0, .reg .f1 .single, some .towardPlus⟩
    ∧ decode 0x000012DD = .div ⟨.mem .two, .mem .two, .mem .two, none⟩
    ∧ decode 0x00001488 = .rem ⟨.reg .f1, .reg .f0, .reg .f0 .extended, none⟩
    ∧ decode 0x00043272 = .abs ⟨.mem .one, .none, .reg .f6 .single, none⟩
    ∧ decode 0x000035FB = .sqrt ⟨.reg .f3, .none, .reg .f3 .extended, none⟩
    ∧ decode 0x0002BA7C = .rtoi ⟨.mem .one, .none, .mem .one, some .towardPlus⟩
    ∧ decode 0x00005D76 = .neg ⟨.reg .f2, .none, .reg .f2 .double, none⟩ := by decide

theorem test_decode_compare :
    decode 0x0000281F = .cmp ⟨.reg .f0, .reg .f1, .none, none⟩
    ∧ decode 0x00102C5F = .cmpe ⟨.reg .f4, .mem .two, .none, none⟩
    ∧ decode 0x0000681F = .cmps ⟨.reg .f0, .reg .f1, .none, none⟩
    ∧ decode 0x00086F3F = .cmpes ⟨.mem .three, .reg .f7, .none, none⟩ := by decide

theorem test_decode_transfer :
    decode 0x00101CFE = .move ⟨.reg .f5, .none, .mem .three, none⟩
    ∧ decode 0x000023FC = .rdasr ⟨.none, .none, .mem .one, none⟩
    ∧ decode 0x0000267F = .wrasr ⟨.mem .one, .none, .none, none⟩
    ∧ decode 0x0000637F = .ldr ⟨.mem .three, .none, .none, none⟩ := by decide

theorem test_decode_conversion :
    decode 0x0000477D = .dtof ⟨.mem .three, .none, .mem .two, none⟩
    ∧ decode 0x00004AFE = .ftod ⟨.mem .two, .none, .mem .three, none⟩
    ∧ decode 0x0003BC7C = .ftoi ⟨.reg .f0, .none, .mem .one, some .towardZero⟩
    ∧ decode 0x00004276 = .itof ⟨.mem .one, .none, .reg .f2 .double, none⟩ := by decide

theorem test_decode_transcendental :
    decode 0x00007875 = .atan ⟨.reg .f0, .none, .reg .f1 .double, none⟩
    ∧ decode 0x00007470 = .cos ⟨.reg .f0, .none, .reg .f0 .single, none⟩
    ∧ decode 0x000072FD = .sin ⟨.mem .two, .none, .mem .two, none⟩
    ∧ decode 0x0003FFFC = .pi ⟨.none, .none, .mem .one, some .towardZero⟩ := by decide

theorem test_decode_miscellaneous :
    decode 0x000053FE = .erof ⟨.none, .none, .mem .three, none⟩
    ∧ decode 0x00004FFF = .nop ⟨.none, .none, .none, none⟩
    ∧ decode 0x00000000 = .reserved00 ⟨.reg .f0, .reg .f0, .reg .f0 .single, none⟩
    ∧ decode 0x000007FF = .reserved01 ⟨.none, .none, .none, none⟩
    ∧ decode 0x000057FF = .reserved15 ⟨.none, .none, .none, none⟩
    ∧ decode 0x00005BFF = .reserved16 ⟨.none, .none, .none, none⟩
    ∧ decode 0x000067FF = .reserved19 ⟨.none, .none, .none, none⟩ := by decide

/-- Reserved bits 23-21 are ignored, and RC without RCS (spec/95_test_vectors.md, decode checks). -/
theorem test_decode_ignored_bits :
    decode 0x00E00A4C = decode 0x00000A4C ∧ decode 0x0000FFFF = .pi ⟨.none, .none, .none, none⟩ := by decide

/-- A command is one word. -/
theorem test_decode_words :
    decodeWords [] = .error .noCommandWord ∧ decodeWords [0x00004FFF, 0] = .error .wordAfterCommand := ⟨rfl, rfl⟩

theorem test_encode :
    encode (.mul ⟨.reg .f0, .reg .f0, .reg .f1 .single, some .towardPlus⟩) = 0x00029801
    ∧ encode (.cmpes ⟨.mem .three, .reg .f7, .none, none⟩) = 0x00086F3F := by decide

/-! ### Formats (spec/95_test_vectors.md sections 1.2, 3.2) -/

theorem test_classes :
    classify 0x7FFF4000000000000000 = .quietNan ∧ classify 0x7FFF8000000000000000 = .trappingNan
    ∧ classify 0x7FFF0000000000000000 = .infinity ∧ classify 0x80000000000000000000 = .zero
    ∧ classify 0x3FFF0000000000000000 = .unnormZero ∧ classify 0x3FFF4000000000000000 = .normal := by decide

theorem test_widening :
    widenSingle 0x3EAAAAAB = 0x3FFDAAAAAB0000000000 ∧ widenSingle 0x00000001 = 0x3F6A8000000000000000
    ∧ widenSingle 0x7F800001 = 0x7FFF8000010000000000 ∧ widenDouble 0x0000000000000001 = 0x3BCD8000000000000000
    ∧ widenDouble 0x3FF0000000000000 = 0x3FFF8000000000000000 := by decide +kernel

theorem test_encodings :
    encodeSingle (.finite false 15 (-2)) = 0x40700000 ∧ encodeSingle (.finite false 1 (-149)) = 0x00000001
    ∧ encodeDouble (.finite true 90 (-1)) = 0xC046800000000000 ∧ encodeSingle .generatedNan = 0x7FFFFFFF
    ∧ encodeExtended (.infinity true) = 0xFFFF0000000000000000 := by decide +kernel

/-- A NaN whose fraction fits keeps it (spec/95_test_vectors.md section 3.4). -/
theorem test_nan_fits : encodeDouble (.nan true true 0x4000010000000000) = 0xFFF8000020000000 := by decide +kernel

/-- +123, -45, an infinity, a trapping NaN, and a digit above 9. -/
theorem test_decimal_classes :
    decClassify 0x123C = .number false 123 ∧ decClassify 0x45D = .number true 45
    ∧ decClassify 0x991 = .infinity true ∧ decClassify 0x4 = .trappingNan ∧ decClassify 0xA0C = .badDigitNan := by
  decide +kernel

/-! ### One instruction in peripheral mode -/

/-- A machine about to run an operation in peripheral mode with these operand words. -/
def probe (asr : Word) (ws1 ws2 : List Word) : State :=
  { State.reset with asr := Asr.ofWord asr, phase := .pExecuting, modeLock := .peripheral, op1In := ws1, op2In := ws2 }

/-- The register F0 and the ASR word after the command `w`. -/
def after (w asr : Word) (ws1 ws2 : List Word) : Option (Extended × Word) :=
  match exec (decode w) (probe asr ws1 ws2) with
  | .next t => some (t.regs.f0, t.asr.toWord)
  | .fault _ => none
  | .refused _ => none

/-- The ASR word after the command `w`. -/
def asrWord (w asr : Word) (ws1 ws2 : List Word) : Option Word := (after w asr ws1 ws2).map Prod.snd

/-- The state after the command `w` satisfies `p`. -/
def leaves (w asr : Word) (ws1 ws2 : List Word) (p : State → Bool) : Bool :=
  match exec (decode w) (probe asr ws1 ws2) with
  | .next t => p t
  | .fault _ => false
  | .refused _ => false

/-- 1.5 + 2.25 = 3.75. -/
theorem test_add : after 0x00000A40 0x80000002 [0x3FC00000] [0x40100000] = some (0x4000F000000000000000, 0x80020002) := by
  decide +kernel
/-- 1 + (-1) is -0 towards minus infinity. -/
theorem test_add_zero : after 0x00030A40 0x80000002 [0x3F800000] [0xBF800000] = some (0x80000000000000000000, 0x80320002) := by
  decide +kernel
/-- SUB 1.5, 1.0 is Op2 - Op1 = -0.5. -/
theorem test_sub : after 0x00000E40 0x80000002 [0x3FC00000] [0x3F800000] = some (0xBFFE8000000000000000, 0x80220002) := by
  decide +kernel
/-- 3.0 times 0.1 rounds to 0x3E99999A. -/
theorem test_mul : after 0x00001A40 0x80000002 [0x40400000] [0x3DCCCCCD] = some (0x3FFD99999A0000000000, 0x80060002) := by
  decide +kernel
/-- A masked overflow to infinity sets OS and PS. -/
theorem test_mul_overflow :
    after 0x00001A40 0x80000002 [0x7F7FFFFF] [0x40000000] = some (0x7FFF0000000000000000, 0x80060102) := by decide +kernel
/-- 1/3 towards zero. -/
theorem test_div : after 0x00039240 0x80000002 [0x40400000] [0x3F800000] = some (0x3FFDAAAAAA0000000000, 0x80060002) := by
  decide +kernel
/-- 3.0 / 0 masked. -/
theorem test_div_zero : after 0x00001240 0x80000002 [0x00000000] [0x40400000] = some (0x7FFF0000000000000000, 0x80020042) := by
  decide +kernel
/-- 3 rem 5 = 3 - 5. -/
theorem test_rem : after 0x00001640 0x80000002 [0x40A00000] [0x40400000] = some (0xC0008000000000000000, 0x80220002) := by
  decide +kernel
/-- 2 rem 4: the tie goes to n = 0. -/
theorem test_rem_tie : after 0x00001640 0x80000002 [0x40800000] [0x40000000] = some (0x40008000000000000000, 0x80020002) := by
  decide +kernel
/-- The square root of 2. -/
theorem test_sqrt : after 0x00003670 0x80000002 [0x40000000] [] = some (0x3FFFB504F30000000000, 0x80060002) := by
  decide +kernel
/-- The square root of -1 is invalid. -/
theorem test_sqrt_negative : after 0x00003670 0x80000002 [0xBF800000] [] = some (0x7FFFFFFFFFFFFFFFFFFF, 0x80020202) := by
  decide +kernel
/-- 2.5 to 2. -/
theorem test_rtoi : after 0x00003A70 0x80000002 [0x40200000] [] = some (0x40008000000000000000, 0x80060002) := by
  decide +kernel
/-- -0.4 to -0. -/
theorem test_rtoi_zero : after 0x00003A70 0x80000002 [0xBECCCCCD] [] = some (0x80000000000000000000, 0x80360002) := by
  decide +kernel
/-- The absolute value of minus infinity. -/
theorem test_abs : after 0x00003270 0x80000002 [0xFF800000] [] = some (0x7FFF0000000000000000, 0x80020002) := by
  decide +kernel
/-- -(+0) = -0. -/
theorem test_neg : after 0x00005E70 0x80000002 [0x00000000] [] = some (0x80000000000000000000, 0x80320002) := by
  decide +kernel
/-- 1e300 to single: overflow. -/
theorem test_move_overflow :
    after 0x00001EF0 0x80000002 [0x7E37E43C, 0x8800759C] [] = some (0x7FFF0000000000000000, 0x80060102) := by decide +kernel
/-- 2^-140 to single: denormalized and exact. -/
theorem test_move_denormal :
    after 0x00001EF0 0x80000002 [0x37300000, 0x00000000] [] = some (0x3F738000000000000000, 0x80020002) := by decide +kernel
/-- CMP: less; -0 equals +0. -/
theorem test_cmp :
    asrWord 0x00002A4F 0x80000002 [0x3F800000] [0x40000000] = some 0x80220002
    ∧ asrWord 0x00002A4F 0x80000002 [0x80000000] [0x00000000] = some 0x80120002 := by decide +kernel
/-- CMP with a nontrapping NaN: UO and no IS. -/
theorem test_cmp_unordered : asrWord 0x00002A4F 0x80000002 [0x7FC00000] [0x3F800000] = some 0x80030002 := by
  decide +kernel
/-- CMPE with a nontrapping NaN: IS too. -/
theorem test_cmpe :
    asrWord 0x00002E4F 0x80000002 [0x7FC00000] [0x3F800000] = some 0x80030202
    ∧ asrWord 0x00002E4F 0x80000002 [0x3F800000] [0x40000000] = some 0x80220002 := by decide +kernel
/-- CMPS exchanges N and Z. -/
theorem test_cmps :
    asrWord 0x00006A4F 0x80000002 [0x3F800000] [0x40000000] = some 0x80120002
    ∧ asrWord 0x00006A4F 0x80000002 [0x3F800000] [0x3F800000] = some 0x80220002 := by decide +kernel
/-- CMPES: greater; unordered. -/
theorem test_cmpes :
    asrWord 0x00006E4F 0x80000002 [0x40000000] [0x3F800000] = some 0x80020002
    ∧ asrWord 0x00006E4F 0x80000002 [0x3F800000] [0x7FC00000] = some 0x80030202 := by decide +kernel
/-- WRASR of one word, and of two (the last one counts). -/
theorem test_wrasr :
    asrWord 0x0000267F 0x80000002 [0x80C04001] [] = some 0x80C04003
    ∧ asrWord 0x0000267F 0x80000002 [0xFFFFFFFF] [] = some 0x83FFFFF3
    ∧ asrWord 0x000026FF 0x80000002 [0x11111111, 0x80000800] [] = some 0x80000802 := by decide +kernel
/-- RDASR leaves the ASR; bits 30-0 of the word it stores are the ASR's, whatever bit 31 is. -/
theorem test_rdasr :
    asrWord 0x000023FC 0x80060002 [] [] = some 0x80060002
    ∧ ∀ b, ({ Asr.ofWord 0x80060002 with ra := b }.toWord).extractLsb' 0 31 = 0x00060002 := by decide +kernel
/-- LDR of the divide-by-zero image. -/
theorem test_ldr :
    leaves 0x0000637F 0x80000002 [0x10020000, 0x80000000, 0] [] (fun t => t.dr == 0x100200008000000000000000
      && t.asr.toWord == 0x80000002) = true := by decide +kernel
/-- EROF delivers DR. -/
theorem test_erof (d : Triple) :
    erofImage (decode 0x000053FE).operands { State.reset with dr := d } = d := rfl
/-- NOP and an unassigned opcode complete and leave the ASR. -/
theorem test_nop :
    asrWord 0x00004FFF 0x00060002 [] [] = some 0x80060002 ∧ asrWord 0x000067FF 0x00060002 [] [] = some 0x80060002
    ∧ asrWord 0x000007FF 0x00060002 [] [] = some 0x80060002 ∧ asrWord 0x000057FF 0x00060002 [] [] = some 0x80060002
    ∧ asrWord 0x00005BFF 0x00060002 [] [] = some 0x80060002 ∧ asrWord 0x00000000 0x00060002 [] [] = some 0x80060002 := by
  decide +kernel
/-- 16777217 to single. -/
theorem test_itof : after 0x00004270 0x80000002 [0x01000001] [] = some (0x40178000000000000000, 0x80060002) := by
  decide +kernel
/-- -2^31. -/
theorem test_itof_least : after 0x00004270 0x80000002 [0x80000000] [] = some (0xC01E8000000000000000, 0x80220002) := by
  decide +kernel
/-- -2.5 in three modes, and -2^31. -/
theorem test_ftoi :
    roundToInt .nearest (extValue (widenSingle 0xC0200000)) = -2
    ∧ roundToInt .towardMinus (extValue (widenSingle 0xC0200000)) = -3
    ∧ roundToInt .towardPlus (extValue (widenSingle 0x40200000)) = 3
    ∧ asrWord 0x00003E7C 0x80000002 [0xC0200000] [] = some 0x80260002
    ∧ asrWord 0x00003E7C 0x80000002 [0xCF000000] [] = some 0x80220002 := by decide +kernel
/-- 2^31 does not fit: IO and no other exception. -/
theorem test_ftoi_overflow :
    leaves 0x00003E7C 0x80007C02 [0x4F000000] [] (fun t => t.asr.io && !t.asr.ecp && !t.asr.ps && !t.asr.is) = true := by
  decide +kernel
/-- +123 and 10^18 - 1. -/
theorem test_dtof :
    after 0x00004770 0x80000002 [0, 0, 0x0000123C] [] = some (0x4005F600000000000000, 0x80020002)
    ∧ after 0x00004778 0x80000002 [0x00000999, 0x99999999, 0x9999999C] [] = some (0x403ADE0B6B3A763FFFF0, 0x80020002) := by
  decide +kernel
/-- The digits of 999999984306749440, and the flags of 123.0 and -2.5. -/
theorem test_ftod :
    decPack 999999984306749440 = 0x999999984306749440
    ∧ asrWord 0x00004A7E 0x80000002 [0x42F60000] [] = some 0x80020002
    ∧ asrWord 0x00004A7E 0x80000002 [0xC0200000] [] = some 0x80260002 := by decide +kernel
/-- 10^18 and above: IO. -/
theorem test_ftod_overflow :
    leaves 0x00004A7E 0x80000002 [0x5D5E0B6C] [] (fun t => t.asr.io && !t.asr.is) = true := by decide +kernel
/-- ATAN 1.0 is 0x3F490FDA or 0x3F490FDB, no neighbour of them. -/
theorem test_atan_bound :
    ([0xC90FD9, 0xC90FDA, 0xC90FDB, 0xC90FDC].map
      (fun m => trigWithin .atan (extValue 0x3FFF8000000000000000) .single .nearest m (-24)))
      = [false, true, true, false] := by decide +kernel
/-- SIN 0.5 is 0x3EF57743 or 0x3EF57744. -/
theorem test_sin_bound :
    ([0xF57742, 0xF57743, 0xF57744, 0xF57745].map
      (fun m => trigWithin .sin (extValue 0x3FFE8000000000000000) .single .nearest m (-25)))
      = [false, true, true, false] := by decide +kernel
/-- COS of the singles around pi/2: the lower is in range. -/
theorem test_cos_range :
    aboveHalfPi (extValue (widenSingle 0x3FC90FDA)) = false
    ∧ after 0x00007670 0x80000002 [0x3FC90FDB] [] = some (0x7FFFFFFFFFFFFFFFFFFF, 0x80020202) := by decide +kernel
/-- COS of a zero is 1, SIN of -0 is -0, ATAN of 2.0 is invalid. -/
theorem test_trig_special :
    after 0x00007670 0x80000002 [0x80000000] [] = some (0x3FFF8000000000000000, 0x80020002)
    ∧ after 0x00007270 0x80000002 [0x80000000] [] = some (0x80000000000000000000, 0x80320002)
    ∧ after 0x00007A70 0x80000002 [0x40000000] [] = some (0x7FFFFFFFFFFFFFFFFFFF, 0x80020202) := by decide +kernel
/-- PI in double-extended precision to nearest, and in single precision towards zero. -/
theorem test_pi :
    after 0x00007FF8 0x80000002 [] [] = some (0x4000C90FDAA22168C235, 0x80060002)
    ∧ after 0x0003FFF0 0x80000002 [] [] = some (0x4000C90FDA0000000000, 0x80060002) := by decide +kernel

/-! ### Signalled exceptions (spec/95_test_vectors.md section 3.8) -/

/-- MUL overflow with OM = 1: sign, true exponent, significand and L, G, R, S of the image 0x8000407F_FFFFFF00_00000000. -/
theorem test_overflow_image :
    (finish (Asr.ofWord 0x80002002) .single .nearest false
        (exactProduct (extValue (widenSingle 0x7F7FFFFF)) (extValue (widenSingle 0x40000000)))).trap
      = some (.rounded false (0x407F - 16383) 0xFFFFFF0000000000 0b1000) := by decide +kernel
/-- 1/3 with PM = 1: L, G, R, S are 0101 and the 24-bit significand is 0xAAAAAB. -/
theorem test_inexact_image :
    (finish (Asr.ofWord 0x80000402) .single .nearest false
        (exactQuotient (extValue (widenSingle 0x3F800000)) (extValue (widenSingle 0x40400000)))).trap
      = some (.inexact (.finite false 0xAAAAAB (-25)) .single false (some 0b0101)) := by decide +kernel
/-- RTOI of 2.5 with PM = 1: the inexact 2.0 with L, G, R, S of the integer (spec/41_operation_model.md R247). -/
theorem test_rtoi_image :
    (roundIntegral ⟨.mem .one, .none, .mem .one, none⟩ (probe 0x80000402 [] []) (extValue (widenSingle 0x40200000))).trap
      = some (.inexact (.finite false 0x800000 (-22)) .single false (some 0)) := by decide +kernel
/-- The narrow image of an infinity holds only its implicit bit, whatever that is (spec/60_exceptions.md R420). -/
theorem test_infinity_image :
    ∀ b, infinitySignificand .single b < 2 ^ 24 ∧ infinitySignificand .single b % 2 ^ 23 = 0 := by decide
/-- A partial remainder is taken only where the destination holds it: 2^25 + 4 - 1 in double, not in single precision
(spec/42_arithmetic.md R289). -/
theorem test_partial_remainder :
    partialRemainder .single ⟨false, 1, 0, false⟩ ⟨false, 2 ^ 25 + 4, 0, false⟩ 0 1 = none
    ∧ partialRemainder .double ⟨false, 1, 0, false⟩ ⟨false, 2 ^ 25 + 4, 0, false⟩ 0 1 = some (2 ^ 25 + 3) := by
  decide +kernel
/-- FTOI of an infinity to a register with IM = 1: signalled, F0 not written. -/
theorem test_ftoi_register :
    leaves 0x00003E70 0x80004002 [0x7F800000] [] (fun t => t.asr.is && t.asr.ecp && t.regs.f0 == 0) = true := by
  decide +kernel
/-- MOVE F0 to a triple word, exponent field 0 and J = 1: the bits of the register (60_exceptions R450). -/
theorem test_move_field_zero :
    (match exec (decode 0x00001C7E) { probe 2 [] [] with regs := { State.reset.regs with f0 := 0x80008000000000000001 } } with
      | .next t => t.dr == 0x80008000000000000001
      | .fault _ => false
      | .refused _ => false) = true := by decide +kernel
/-- FTOI of an infinity to a register with the exception masked: IS, F0 not changed (D38). -/
theorem test_ftoi_register_masked :
    (match exec (decode 0x00003E70) { probe 2 [0x7F800000] [] with regs := { State.reset.regs with f0 := 7 } } with
      | .next t => t.asr.is && !t.asr.ecp && t.regs.f0 == 7
      | .fault _ => false
      | .refused _ => false) = true := by decide +kernel
/-- MOVE of a trapping NaN with IM = 1: RA, ECP, CSC, IS; PIREQ# asserted; F0 not written. -/
theorem test_trapping_move :
    leaves 0x00001E70 0x80004002 [0x7F800001] [] (fun t => t.asr.ra && t.asr.ecp && t.asr.csc && t.asr.is && t.pireq
      && t.regs.f0 == 0 && t.phase == .quiescent) = true := by decide +kernel

/-! ### Bus events (spec/95_test_vectors.md section 3.9) -/

/-- The state after one step satisfies `p`. -/
def stepLeaves (s : State) (p : State → Bool) : Bool :=
  match step s with
  | .next t => p t
  | .fault _ => false
  | .refused _ => false

/-- A state with an ASR word, a command word, a mode, a phase and one bus event. -/
def busState (asr cr : Word) (mode : Mode) (phase : Phase) (e : BusEvent) : State :=
  { State.reset with asr := Asr.ofWord asr, cr := cr, modeLock := mode, phase := phase, inbox := [e] }

/-- V1: a command write clears RA and awaits two words. -/
theorem test_command_write :
    stepLeaves (busState 0x80000002 0 .coprocessor .quiescent (.periphWrite 7 0x00000A4C)) (fun t =>
      t.asr.toWord == 2 && t.phase == .pAwaitOperands 2 && t.modeLock == .peripheral && t.bus.dtack) = true := by
  decide +kernel
/-- V3: a word written to the ASR object is an operand word. -/
theorem test_operand_write :
    stepLeaves (busState 2 0x00000A4C .peripheral (.pAwaitOperands 2) (.periphWrite 0 0x3FC00000)) (fun t =>
      t.asr.toWord == 2 && t.phase == .pAwaitOperands 1 && t.op1In == [0x3FC00000]) = true := by decide +kernel
/-- V5: objects 1 to 3 read the ASR. -/
theorem test_asr_alias :
    stepLeaves (busState 0x80020002 0 .peripheral .quiescent (.periphRead 3)) (fun t =>
      t.bus.data == some 0x80020002) = true := by decide +kernel
/-- V8: a broadcast with a foreign ID gets no answer. -/
theorem test_foreign_broadcast :
    stepLeaves (busState 0x80000002 5 .coprocessor .quiescent (.broadcast 0x01000A4C true)) (fun t =>
      !t.bus.srdy && t.phase == .quiescent && t.cr == 5 && t.asr.toWord == 0x80000002) = true := by decide +kernel
/-- V9: a broadcast ends the ADD in progress. -/
theorem test_broadcast_restarts :
    stepLeaves (busState 2 0x00000A4C .coprocessor (.cAwaitOperands 2) (.broadcast 0x00004FFF true)) (fun t =>
      t.bus.srdy && t.phase == .cExecuting && t.cr == 0x00004FFF) = true := by decide +kernel
/-- V11: a half-word fetch with FE = 1. -/
theorem test_size_fault :
    stepLeaves (busState 3 0x00000A4C .coprocessor (.cAwaitOperands 2) (.dataFetch 0 0b101 true)) (fun t =>
      t.bus.fault && t.asr.uw && t.phase == .quiescent) = true := by decide +kernel
/-- R126: the same fetch with FE = 0 is neither faulted nor recorded in UW. -/
theorem test_size_no_fault :
    stepLeaves (busState 2 0x00000A4C .coprocessor (.cAwaitOperands 2) (.dataFetch 0 0b101 false)) (fun t =>
      !t.bus.fault && !t.asr.uw && t.phase == .cAwaitOperands 2) = true := by decide +kernel
/-- R91: a write to an ASR object while an operation executes changes nothing. -/
theorem test_executing_write :
    stepLeaves (busState 2 0x00000A4C .peripheral .pExecuting (.periphWrite 0 0xFFFFFFFF)) (fun t =>
      t.asr.toWord == 2 && t.phase == .pExecuting && t.bus.dtack) = true := by decide +kernel
/-- V12: an interrupt acknowledge aborts before DONE#. -/
theorem test_int_ack :
    stepLeaves (busState 2 0x00000A4C .coprocessor (.cAwaitOperands 1) .intAck) (fun t =>
      t.asr.ra && t.phase == .quiescent) = true := by decide +kernel
/-- V15: a register destination is written at the status fetch. -/
theorem test_status_fetch :
    stepLeaves { busState 0x80020002 0x00000816 .coprocessor .cDone .statusFetch with
        done := true, pending := .register .f2 7 } (fun t =>
      t.regs.f2 == 7 && t.phase == .quiescent && t.bus.srdy && t.bus.data == some 0x80020002 && !t.done) = true := by
  decide +kernel
/-- The status word of CMP with a NaN shows UO in bit 18 (spec/95_test_vectors.md section 3.3). -/
theorem test_compare_status :
    stepLeaves { busState 0x80030002 0x00002A4F .coprocessor .cDone .statusFetch with done := true } (fun t =>
      t.bus.data == some 0x80070002 && t.asr.toWord == 0x80030002) = true := by decide +kernel
/-- P5: a failed data write with FE = 1 sets WF and drives the word 0x55555555. -/
theorem test_write_fault :
    stepLeaves { busState 0x80060003 0x000012DD .coprocessor (.cAwaitWrites 1) (.dataWrite 0b100 false) with
        pending := .words 0x3FD555555555555500000000 } (fun t =>
      t.bus.data == some 0x55555555 && t.asr.toWord == 0x80068003 && t.phase == .cAwaitWrites 1) = true := by
  decide +kernel
/-- After `withFetchWord` the next step runs the command. -/
theorem test_fetch_word :
    stepLeaves (State.reset.withFetchWord 32 0x00000A40) (fun t => t.asr.csc && t.asr.z && t.pireq) = true := by
  decide +kernel

/-! ### Witnesses: the hypotheses of each obligation can be met

`witness_<Name>` shows, for every clause of `Obligations.<Name>` that has hypotheses, concrete values meeting them. -/

/-- The hypotheses of `Obligations.EncodeOfDecode`. -/
def canonicalCommand (w : Word) : Prop :=
  w.extractLsb' 21 11 = 0 ∧ (w.getLsbD 9 = true → w.getLsbD 20 = false) ∧ (w.getLsbD 6 = true → w.getLsbD 19 = false)
    ∧ (w.getLsbD 3 = true ∧ w.getLsbD 2 = true → w.getLsbD 18 = false)
    ∧ (w.getLsbD 17 = false → w.extractLsb' 15 2 = 0)

/-- A command with round control, one with every bank bit set, one without operands. -/
theorem witness_EncodeOfDecode :
    canonicalCommand 0x0003FFFC ∧ canonicalCommand 0x001C09BB ∧ canonicalCommand 0x00004FFF := by
  unfold canonicalCommand
  decide

/-- A NOP about to run, without a waiting event and with `elapse`. -/
theorem witness_StepRunsDecoded :
    (let s := { busState 0 0x00004FFF .peripheral .pExecuting .elapse with inbox := [] }
     isExecuting s = true ∧ operandsReady s = true ∧ isRestart s = false ∧ s.inbox = [])
    ∧ (let s := busState 3 0x00004FFF .coprocessor .cExecuting .elapse
       isExecuting s = true ∧ operandsReady s = true ∧ isRestart s = false ∧ s.inbox = .elapse :: []) := by
  decide +kernel

/-- An ADD that awaits its last two words, one of which arrives. -/
def awaitingState : State := busState 2 0x00000A4C .peripheral (.pAwaitOperands 2) (.periphWrite 0 0x3FC00000)

theorem awaitingState_inv : awaitingState.Inv := by
  refine ⟨⟨rfl, ?_, rfl, rfl, rfl⟩, .inl rfl⟩
  unfold awaiting
  decide

theorem witness_InvariantKept : awaitingState.Inv ∧ ∃ t, step awaitingState = .next t :=
  ⟨awaitingState_inv, _, rfl⟩

theorem witness_NoFaultUnderInvariant : awaitingState.Inv := awaitingState_inv

/-- A reset while an operation executes, and one in the quiescent state. -/
theorem witness_ResetKeepsRegisters :
    (busState 2 0x00004FFF .peripheral .pExecuting .reset).inbox = .reset :: []
    ∧ (busState 2 0x00004FFF .peripheral .quiescent .reset).inbox = .reset :: []
    ∧ isExecuting (busState 2 0x00004FFF .peripheral .quiescent .reset) = false := by decide

/-- A step of the awaiting ADD is no software write. -/
theorem awaitingState_reads : ¬ softwareWrite awaitingState := by
  rintro (⟨hq, -⟩ | ⟨⟨o, ho⟩, -⟩)
  · exact absurd hq (by decide)
  · have h : currentInstr awaitingState = .add ⟨.mem .one, .mem .one, .mem .one, none⟩ := by decide
    rw [h] at ho
    cases ho

/-- Nor does it cut a WRASR short. -/
theorem awaitingState_whole : ¬ cutsWrasrShort awaitingState := by
  rintro ⟨⟨o, ho⟩, -⟩
  have h : currentInstr awaitingState = .add ⟨.mem .one, .mem .one, .mem .one, none⟩ := by decide
  rw [h] at ho
  cases ho

theorem witness_SoftwareOwnedBits :
    (∃ t, step awaitingState = .next t) ∧ ¬ softwareWrite awaitingState ∧ ¬ cutsWrasrShort awaitingState :=
  ⟨⟨_, rfl⟩, awaitingState_reads, awaitingState_whole⟩

/-- The quiescent write of objects 0 and 3. -/
theorem witness_AsrWrittenThenRead :
    ∀ obj ∈ ([0, 3] : List (BitVec 3)),
      let s := busState 2 0 .coprocessor .quiescent (.periphWrite obj 0xFFFFFFFF)
      s.phase = .quiescent ∧ s.inbox = .periphWrite obj 0xFFFFFFFF :: [] ∧ obj.toNat < 4 := by decide

/-- A write to ASR object 0 and to object 3, and a step that is no software write with FE = 0. -/
theorem witness_FeatureEnable :
    (∀ obj ∈ ([0, 3] : List (BitVec 3)),
      let s := busState 2 0 .coprocessor .quiescent (.periphWrite obj 0xFFFFFFFF)
      s.phase = .quiescent ∧ s.inbox = .periphWrite obj 0xFFFFFFFF :: [] ∧ obj.toNat < 4)
    ∧ (∃ t, step awaitingState = .next t) ∧ ¬ softwareWrite awaitingState ∧ awaitingState.asr.fe = false :=
  ⟨by decide, ⟨_, rfl⟩, awaitingState_reads, rfl⟩

/-- An operation that sets CSC, an exempt one that is no WRASR, and coprocessor mode. -/
theorem witness_InstructionFrame :
    (Instr.add ⟨.reg .f0, .reg .f1, .reg .f2 .double, none⟩).exempt = false
    ∧ (Instr.nop ⟨.none, .none, .none, none⟩).exempt = true
    ∧ (∀ o, Instr.nop ⟨.none, .none, .none, none⟩ ≠ .wrasr o)
    ∧ (∀ p, (Instr.add ⟨.reg .f0, .reg .f1, .reg .f2 .double, none⟩).operands.op3 ≠ .reg .f3 p)
    ∧ State.reset.modeLock = .coprocessor := by
  refine ⟨rfl, rfl, ?_, ?_, rfl⟩
  · intro o h
    cases h
  · intro p
    cases p <;> decide

/-- Reads of objects 0, 3, 4, 5, 6 in the quiescent state and of object 3 of a transaction in progress. -/
theorem witness_PeripheralRead :
    (∀ obj ∈ ([0, 3, 4, 5, 6, 7] : List (BitVec 3)),
      let s := busState 2 0 .coprocessor .quiescent (.periphRead obj)
      s.inbox = .periphRead obj :: [] ∧ s.phase = .quiescent)
    ∧ (let s := busState 2 0x00000A4C .peripheral (.pAwaitOperands 2) (.periphRead 3)
       s.inbox = .periphRead 3 :: [] ∧ s.phase = .pAwaitOperands 2)
    ∧ (let s := busState 2 0x0000267F .peripheral .pExecuting (.periphRead 3)
       s.inbox = .periphRead 3 :: [] ∧ s.phase = .pExecuting) := by decide

/-- All four phases of a coprocessor transaction. -/
theorem witness_PeripheralWriteIgnored :
    ∀ ph ∈ ([.cAwaitOperands 2, .cExecuting, .cDone, .cAwaitWrites 1] : List Phase),
      let s := busState 2 0x00000A4C .coprocessor ph (.periphWrite 0 5)
      inCoprocessor s ∧ s.inbox = .periphWrite 0 5 :: [] := by
  intro ph h
  simp only [List.mem_cons, List.not_mem_nil, or_false] at h
  rcases h with rfl | rfl | rfl | rfl
  · exact ⟨.inl ⟨2, rfl⟩, rfl⟩
  · exact ⟨.inr (.inl rfl), rfl⟩
  · exact ⟨.inr (.inr (.inl rfl)), rfl⟩
  · exact ⟨.inr (.inr (.inr ⟨1, rfl⟩)), rfl⟩

/-- A write to an object other than CR while an operation executes. -/
theorem witness_PeripheralWriteIgnored_executing :
    let s := busState 2 0x00004FFF .peripheral .pExecuting (.periphWrite 6 5)
    s.phase = .pExecuting ∧ (6 : BitVec 3) ≠ 7 ∧ s.inbox = .periphWrite 6 5 :: [] := by decide

/-- Outside a coprocessor transaction. -/
theorem not_in_coprocessor {s : State} (h : s.phase = .quiescent ∨ s.phase = .pExecuting) : ¬ inCoprocessor s := by
  rintro (⟨k, hk⟩ | hk | hk | ⟨k, hk⟩) <;> rcases h with h | h <;> rw [h] at hk <;> cases hk

/-- A command written in the quiescent state and during an operation, with and without operand words. -/
theorem witness_PeripheralStart :
    ∀ w ∈ ([0x00000A4C, 0x00004FFF] : List Word),
      (let s := busState 2 0 .coprocessor .quiescent (.periphWrite 7 w)
       ¬ inCoprocessor s ∧ s.inbox = .periphWrite 7 w :: [])
      ∧ (let s := busState 2 0x00004FFF .peripheral .pExecuting (.periphWrite 7 w)
         ¬ inCoprocessor s ∧ s.inbox = .periphWrite 7 w :: []) :=
  fun _ _ => ⟨⟨not_in_coprocessor (.inl rfl), rfl⟩, ⟨not_in_coprocessor (.inr rfl), rfl⟩⟩

/-- The last word and one before it; a word of Op1 and one of Op2. -/
theorem witness_PeripheralOperandWord :
    ∀ k ∈ ([1, 2] : List Nat),
      let s := busState 2 0x00000A4C .peripheral (.pAwaitOperands k) (.periphWrite 6 9)
      s.phase = .pAwaitOperands k ∧ (6 : BitVec 3) ≠ 7 ∧ s.inbox = .periphWrite 6 9 :: []
      ∧ s.op1In.length < (decode s.cr).operands.op1.words
      ∧ ¬ ({ s with op1In := [8] }.op1In.length < (decode s.cr).operands.op1.words) := by decide

/-- A PIACK#, an operation that completes, and each change of PIREQ#. -/
theorem witness_PireqChanges :
    (busState 2 0 .peripheral .quiescent .piAck).inbox = .piAck :: []
    ∧ (let s := { busState 2 0x00004FFF .peripheral .pExecuting .elapse with inbox := [] }
       s.phase = .pExecuting ∧ s.modeLock = .peripheral ∧ s.inbox = []
       ∧ ∃ t, step s = .next t ∧ s.pireq = false ∧ t.pireq = true)
    ∧ (let s := { busState 2 0 .peripheral .quiescent .piAck with pireq := true }
       ∃ t, step s = .next t ∧ s.pireq = true ∧ t.pireq = false) :=
  ⟨rfl, ⟨rfl, rfl, rfl, _, rfl, rfl, rfl⟩, _, rfl, rfl, rfl⟩

/-- A foreign ID, a bus exception, and an accepted command with and without operand words. -/
theorem witness_Broadcast :
    (busState 2 0 .coprocessor .quiescent (.broadcast 0x01000A4C true)).inbox = .broadcast 0x01000A4C true :: []
    ∧ (0x01000A4C : Word).extractLsb' 24 8 ≠ 0
    ∧ (busState 2 0 .coprocessor .cDone (.broadcast 0x00000A4C false)).inbox = .broadcast 0x00000A4C false :: []
    ∧ (busState 2 0 .coprocessor .cDone (.broadcast 0x00004FFF true)).inbox = .broadcast 0x00004FFF true :: []
    ∧ (0x00004FFF : Word).extractLsb' 24 8 = 0 ∧ (0x00000A4C : Word).extractLsb' 24 8 = 0 := by decide

/-- A word with and without a bus exception, the last and one before it. -/
theorem witness_CoprocessorOperandWord :
    ∀ k ∈ ([1, 2] : List Nat), ∀ ok ∈ [true, false],
      let s := busState 2 0x00000A4C .coprocessor (.cAwaitOperands k) (.dataFetch 9 0b100 ok)
      s.phase = .cAwaitOperands k ∧ s.inbox = .dataFetch 9 0b100 ok :: [] := by decide

/-- Every DSIZE code but the word's, for a fetch and a write. -/
theorem witness_NonWordAccessFaulted :
    ∀ dsize ∈ ([0b000, 0b001, 0b010, 0b011, 0b101, 0b110, 0b111] : List (BitVec 3)), ∀ ok ∈ [true, false],
      (let s := busState 3 0x00000A4C .coprocessor (.cAwaitOperands 1) (.dataFetch 9 dsize ok)
       s.asr.fe = true ∧ dsize ≠ 0b100 ∧ s.phase = .cAwaitOperands 1 ∧ s.inbox = .dataFetch 9 dsize ok :: [])
      ∧ (let s := busState 3 0x00000A4C .coprocessor (.cAwaitWrites 1) (.dataWrite dsize ok)
         s.asr.fe = true ∧ dsize ≠ 0b100 ∧ s.phase = .cAwaitWrites 1 ∧ s.inbox = .dataWrite dsize ok :: []) := by
  decide

/-- A faulted status fetch and a non-word fetch. -/
theorem witness_FaultOutputOnlyOn :
    (let s := { busState 2 0x00000A4C .coprocessor .cDone .statusFetch with done := true, pendingException := true }
     ∃ t, step s = .next t ∧ t.bus.fault = true)
    ∧ (let s := busState 3 0x00000A4C .coprocessor (.cAwaitOperands 1) (.dataFetch 9 0b101 true)
       ∃ t, step s = .next t ∧ t.bus.fault = true) :=
  ⟨⟨_, rfl, rfl⟩, _, rfl, rfl⟩

/-- A status fetch with a pending exception, with nothing, a register and words pending. -/
theorem witness_StatusFetch :
    (∀ pe ∈ [true, false], ∀ p ∈ ([.nothing, .register .f2 7, .words 9] : List Pending),
      let s := { busState 2 0x00000A4C .coprocessor .cDone .statusFetch with
        done := true, pendingException := pe, pending := p }
      s.phase = .cDone ∧ s.inbox = .statusFetch :: [] ∧ s.pendingException = pe ∧ s.pending = p) := by decide

/-- A repeated status fetch, an unexpected one, an unexpected data fetch and data write. -/
theorem witness_StatusFetch_unexpected :
    (let s := { busState 2 0 .coprocessor .quiescent .statusFetch with statusRetry := some (7, true) }
     s.phase ≠ .cDone ∧ s.inbox = .statusFetch :: [] ∧ s.statusRetry = some (7, true))
    ∧ (let s := busState 2 0 .coprocessor .quiescent .statusFetch
       s.phase ≠ .cDone ∧ s.inbox = .statusFetch :: [] ∧ s.statusRetry = none)
    ∧ (let s := busState 2 0 .coprocessor .cDone (.dataFetch 1 0b100 true)
       (∀ k, s.phase ≠ .cAwaitOperands k) ∧ s.inbox = .dataFetch 1 0b100 true :: [])
    ∧ (let s := busState 2 0 .coprocessor .quiescent (.dataWrite 0b101 true)
       (∀ k, s.phase ≠ .cAwaitWrites k) ∧ s.inbox = .dataWrite 0b101 true :: []) :=
  ⟨by decide, by decide, ⟨fun _ h => (by cases h), rfl⟩, ⟨fun _ h => (by cases h), rfl⟩⟩

/-- A compare that is no restart, and another instruction. -/
theorem witness_StatusWordOfCompare :
    (let s := busState 0x80030002 0x00002A4F .coprocessor .cDone .statusFetch
     isRestart s = false ∧ (decode s.cr).isCompare = true)
    ∧ (decode 0x00000A4C).isCompare = false := by decide +kernel

/-- The last word and one before it, written and failed. -/
theorem witness_DataWrite :
    ∀ k ∈ ([1, 2] : List Nat), ∀ ok ∈ [true, false],
      let s := { busState 3 0x000012DD .coprocessor (.cAwaitWrites k) (.dataWrite 0b100 ok) with pending := .words 9 }
      s.phase = .cAwaitWrites k ∧ s.pending = .words 9 ∧ s.inbox = .dataWrite 0b100 ok :: []
      ∧ k ≤ (decode s.cr).operands.op3.words := by decide

/-- A restart with a memory destination (DIV) and with a register destination (ADD F0,F1,F2.d). -/
theorem witness_RestartNotExecuted :
    (let s := { busState 0x00068003 0x000012DD .coprocessor .cExecuting .elapse with
        inbox := [], op1In := [1, 2], op2In := [3, 4] }
     s.phase = .cExecuting ∧ s.modeLock = .coprocessor ∧ s.asr.wf = true ∧ (decode s.cr).exempt = false
     ∧ operandsReady s = true ∧ s.inbox = [] ∧ (decode s.cr).operands.op3 = .mem .two)
    ∧ (let s := { busState 0x00068003 0x00000816 .coprocessor .cExecuting .elapse with inbox := [] }
       s.phase = .cExecuting ∧ s.modeLock = .coprocessor ∧ s.asr.wf = true ∧ (decode s.cr).exempt = false
       ∧ operandsReady s = true ∧ s.inbox = [] ∧ ∀ n, (decode s.cr).operands.op3 ≠ .mem n) := by
  refine ⟨by decide +kernel, by decide +kernel, rfl, by decide +kernel, by decide +kernel, by decide +kernel, rfl, ?_⟩
  intro n
  cases n <;> decide

theorem witness_IntAckIgnored :
    let s := busState 2 0x00000A4C .peripheral (.pAwaitOperands 1) .intAck
    s.modeLock = .peripheral ∧ s.inbox = .intAck :: [] := by decide

/-- An abort while words are awaited, during an operation, and during a restart. -/
theorem witness_IntAckAborts :
    (let s := busState 2 0x00000A4C .coprocessor (.cAwaitOperands 1) .intAck
     s.modeLock = .coprocessor ∧ s.phase = .cAwaitOperands 1 ∧ s.phase ≠ .cExecuting ∧ s.inbox = .intAck :: []
     ∧ isRestart s = false)
    ∧ (let s := busState 0x00008003 0x00000816 .coprocessor .cExecuting .intAck
       s.modeLock = .coprocessor ∧ s.phase = .cExecuting ∧ s.inbox = .intAck :: [] ∧ isRestart s = true)
    ∧ (let s := busState 2 0x00000816 .coprocessor .cExecuting .intAck
       isRestart s = false ∧ ∃ u, exec (decode s.cr) { s with inbox := [] } = .next u) :=
  ⟨by decide +kernel, by decide +kernel, by decide +kernel, exec_next _ _⟩

/-- An interrupt acknowledge after DONE#, between data writes, and in the quiescent state with RA = 1. -/
theorem witness_IntAckAborts_later :
    (let s := busState 2 0x00000A4C .coprocessor .cDone .intAck
     s.modeLock = .coprocessor ∧ s.phase = .cDone ∧ s.inbox = .intAck :: [])
    ∧ (let s := busState 2 0x00000A4C .coprocessor (.cAwaitWrites 1) .intAck
       s.modeLock = .coprocessor ∧ s.phase = .cAwaitWrites 1 ∧ s.inbox = .intAck :: [])
    ∧ (let s := busState 0x80000002 0x00000A4C .coprocessor .quiescent .intAck
       s.modeLock = .coprocessor ∧ s.phase = .quiescent ∧ s.inbox = .intAck :: [] ∧ s.asr.ra = true) := by
  decide +kernel

/-- A register changed by an operation in peripheral mode, and one by a status fetch. -/
theorem witness_RegisterChanges :
    stepLeaves { busState 2 0x00003270 .peripheral .pExecuting .elapse with op1In := [0xFF800000] }
        (fun t => t.regs.get .f0 != (0 : Extended)) = true
    ∧ stepLeaves { busState 2 0x00000816 .coprocessor .cDone .statusFetch with pending := .register .f2 7 }
        (fun t => t.regs.get .f2 != (0 : Extended)) = true := by decide +kernel

/-- DR changes: WRASR completes, an interrupt acknowledge aborts an ABS, a DR object and an operand word are written. -/
theorem witness_RegisterChanges_dr :
    mayWriteDr { busState 2 0x0000267F .coprocessor .cExecuting .elapse with inbox := [], op1In := [1] }
    ∧ mayWriteDr { busState 2 0x0000327C .coprocessor .cExecuting .intAck with op1In := [1] }
    ∧ mayWriteDr (busState 2 0 .peripheral .quiescent (.periphWrite 4 9))
    ∧ mayWriteDr (busState 2 0x00000A4C .peripheral (.pAwaitOperands 2) (.periphWrite 0 9))
    ∧ stepLeaves { busState 2 0x0000637F .coprocessor .cExecuting .elapse with inbox := [], op1In := [1, 2, 3] }
        (fun t => t.dr != (0 : Triple)) = true := by
  refine ⟨.inl ⟨by decide, by decide +kernel, .inl rfl, ?_⟩, .inr (.inl ⟨rfl, by decide +kernel, rfl, _, rfl⟩),
    .inr (.inr ⟨4, 9, [], rfl, .inl ⟨rfl, by decide, by decide⟩⟩),
    .inr (.inr ⟨0, 9, [], rfl, .inr ⟨⟨2, rfl⟩, by decide⟩⟩), by decide +kernel⟩
  have h : decode 0x0000267F = .wrasr ⟨.mem .one, .none, .none, none⟩ := by decide +kernel
  intro ⟨o, ho⟩
  have hd : decode (busState 2 0x0000267F .coprocessor .cExecuting .elapse).cr = .wrasr ⟨.mem .one, .none, .none, none⟩ := h
  simp only [hd, actsAsNop] at ho
  simp at ho

/-- The absolute value of an infinity in both modes, delivered; of a trapping NaN, signalled. -/
theorem witness_ResultDelivered :
    ∀ m ∈ [Mode.peripheral, Mode.coprocessor], ∀ d ∈ ([.reg .f0 .single, .mem .one] : List Dst),
      ((operationOf (.abs ⟨.mem .one, .none, d, none⟩) { probe 0x80000002 [0xFF800000] [] with modeLock := m }).map
        (fun r => r.trap)) = some none := by decide +kernel

theorem witness_ExceptionTaken :
    ∀ m ∈ [Mode.peripheral, Mode.coprocessor],
      ((operationOf (.abs ⟨.mem .one, .none, .reg .f0 .single, none⟩)
        { probe 0x80004002 [0x7F800001] [] with modeLock := m }).map (fun r => r.trap))
        = some (some (.operand 0x7FFF8000010000000000)) := by decide +kernel

/-- What `handlerFinds` asks of an inexact image: both widths, a number lost to gradual underflow below `2^Emin`, and a
number a narrow image represents. -/
theorem witness_ExceptionTaken_images :
    narrowImage .peripheral .single ∧ ¬ narrowImage .coprocessor .single ∧ ¬ narrowImage .peripheral .extended
    ∧ 1 < 2 ^ (precBits .single - 1) ∧ ((Nat.log2 1 : ℕ) : ℤ) + precLeast .single < precEmin .single
    ∧ (∃ (m : ℕ) (e : ℤ), ((3 : ℕ) : ℝ) * (2 : ℝ) ^ (0 : ℤ) = m * (2 : ℝ) ^ e ∧ m < 2 ^ precBits .single
        ∧ precLeast .single ≤ e) := by
  refine ⟨⟨rfl, by decide⟩, fun h => (by cases h.1), fun h => h.2 rfl, by decide, by decide, 3, 0, rfl, by decide, by decide⟩

theorem witness_NothingSignalledWhenDisabled :
    (Instr.add ⟨.reg .f0, .reg .f1, .reg .f2 .double, none⟩).exempt = false ∧ nothingEnabled State.reset.asr :=
  ⟨rfl, rfl, rfl, rfl, rfl, rfl, rfl⟩

theorem witness_NtncActsAsMask :
    (Instr.add ⟨.reg .f0, .reg .f1, .reg .f2 .double, none⟩).exempt = false
    ∧ (probe 0x81000002 [] []).asr.im = false ∧ (probe 0x81000002 [] []).asr.ntnc = true
    ∧ ∃ t, exec (.add ⟨.reg .f0, .reg .f1, .reg .f2 .double, none⟩) (probe 0x81000002 [] []) = .next t :=
  ⟨rfl, by decide, by decide, _, rfl⟩

/-- Operands of an instruction with sources F0 and F1. -/
def registerOperands : Operands := ⟨.reg .f0, .reg .f1, .reg .f2 .single, none⟩

/-- A state with operands in F0 and F1. -/
def operandState (asr : Word) (a b : Extended) : State := { probe asr [] [] with regs := ⟨a, b, 0, 0, 0, 0, 0, 0⟩ }

/-- A trapping NaN as Op1 and as Op2, signalled (IM) and not. -/
theorem witness_TrappingNan :
    classify (source1 registerOperands (operandState 0x80004002 0x7FFF8000000000000001 0)) = .trappingNan
    ∧ classify (source2 registerOperands (operandState 0x80004002 0 0x7FFF8000000000000001)) = .trappingNan
    ∧ invalidEnabled (operandState 0x80004002 0 0).asr = true ∧ invalidEnabled (operandState 0x80000002 0 0).asr = false
    ∧ twoOperands (.rem registerOperands) registerOperands ∧ oneOperand (.atan registerOperands) registerOperands := by
  refine ⟨by decide, by decide, by decide, by decide, .inr (.inr (.inl rfl)), ?_⟩
  unfold oneOperand
  simp

/-- Infinities of both signs, zeros of both kinds, a number and a negative number. -/
theorem witness_InvalidOperands :
    (let s := operandState 2 0x7FFF0000000000000000 0xFFFF0000000000000000
     isInfinity (source1 registerOperands s) ∧ isInfinity (source2 registerOperands s)
     ∧ extSign (source1 registerOperands s) ≠ extSign (source2 registerOperands s))
    ∧ (let s := operandState 2 0x7FFF0000000000000000 0x7FFF0000000000000000
       isInfinity (source1 registerOperands s) ∧ isInfinity (source2 registerOperands s)
       ∧ extSign (source1 registerOperands s) = extSign (source2 registerOperands s))
    ∧ (let s := operandState 2 0x7FFF0000000000000000 0x3FFF0000000000000000
       isInfinity (source1 registerOperands s) ∧ isZero (source2 registerOperands s) = true)
    ∧ (let s := operandState 2 0x80000000000000000000 0x7FFF0000000000000000
       isZero (source1 registerOperands s) = true ∧ isInfinity (source2 registerOperands s)
       ∧ isNan (source1 registerOperands s) = false ∧ isNan (source2 registerOperands s) = false)
    ∧ (let s := operandState 2 0 0
       isZero (source1 registerOperands s) = true ∧ isZero (source2 registerOperands s) = true)
    ∧ (let s := operandState 2 0xBFFF8000000000000000 0
       isNumber (source1 registerOperands s) ∧ extSign (source1 registerOperands s) = true) := by
  unfold isInfinity isNumber
  decide

theorem witness_SpecialCaseResults_nan :
    (let s := operandState 2 0x7FFFC000000000000000 0x7FFFC000000000000001
     classify (source1 registerOperands s) = .quietNan ∧ classify (source2 registerOperands s) ≠ .trappingNan)
    ∧ (let s := operandState 2 0x3FFF8000000000000000 0x7FFFC000000000000001
       isNan (source1 registerOperands s) = false ∧ classify (source2 registerOperands s) = .quietNan)
    ∧ twoOperands (.div registerOperands) registerOperands := ⟨by decide, by decide, .inr (.inl rfl)⟩

theorem witness_SpecialCaseResults :
    (let s := operandState 2 0x7FFF0000000000000000 0x3FFF8000000000000000
     isInfinity (source1 registerOperands s) ∧ isNumber (source2 registerOperands s))
    ∧ (let s := operandState 2 0x3FFF8000000000000000 0xFFFF0000000000000000
       isNumber (source1 registerOperands s) ∧ isInfinity (source2 registerOperands s))
    ∧ (let s := operandState 2 0x7FFF0000000000000000 0x7FFF0000000000000000
       isInfinity (source1 registerOperands s) ∧ isInfinity (source2 registerOperands s)
       ∧ extSign (source1 registerOperands s) = extSign (source2 registerOperands s))
    ∧ (let s := operandState 2 0x7FFF0000000000000000 0xFFFF0000000000000000
       isInfinity (source1 registerOperands s) ∧ isInfinity (source2 registerOperands s)
       ∧ extSign (source1 registerOperands s) ≠ extSign (source2 registerOperands s))
    ∧ (let s := operandState 2 0x7FFF0000000000000000 0x80000000000000000000
       isInfinity (source1 registerOperands s) ∧ isZero (source2 registerOperands s) = true)
    ∧ (let s := operandState 2 0x80000000000000000000 0x3FFF8000000000000000
       isZero (source1 registerOperands s) = true ∧ isNumber (source2 registerOperands s))
    ∧ (let s := operandState 2 0x3FFF8000000000000000 0x80000000000000000000
       isNumber (source1 registerOperands s) ∧ isZero (source2 registerOperands s) = true)
    ∧ (let s := operandState 2 0x3FFF0000000000000000 0x80000000000000000000
       isZero (source1 registerOperands s) = true ∧ isZero (source2 registerOperands s) = true) := by
  unfold isInfinity isNumber
  decide

/-- 1.0 / 0 with QM = 1 and QM = 0. -/
theorem witness_DivideByZero :
    (let s := operandState 0x80000802 0 0x3FFF8000000000000000
     isZero (source1 registerOperands s) = true ∧ isNumber (source2 registerOperands s) ∧ s.asr.qm = true)
    ∧ (let s := operandState 0x80000002 0 0x3FFF8000000000000000
       isZero (source1 registerOperands s) = true ∧ isNumber (source2 registerOperands s) ∧ s.asr.qm = false) := by
  unfold isNumber
  decide

/-- Two numbers: the hypotheses of `SumOfNumbers`, `ProductAndQuotient`, `SquareRoot`, `Remainder`, `RoundToIntegral`,
`MoveFamily` and `TrigRange`. -/
theorem two_numbers :
    let s := operandState 2 0x3FFF8000000000000000 0x4000C000000000000000
    isNumber (source1 registerOperands s) ∧ isNumber (source2 registerOperands s)
    ∧ extSign (source1 registerOperands s) = false := by
  unfold isNumber
  decide

/-- The value of 1.0. -/
theorem extReal_one : extReal 0x3FFF8000000000000000 = 1 := by
  have h1 : (0x3FFF8000000000000000 : Extended).getLsbD 79 = false := by decide
  have h2 : ((0x3FFF8000000000000000 : Extended).extractLsb' 0 64).toNat = 2 ^ 63 := by decide
  have h3 : ((0x3FFF8000000000000000 : Extended).extractLsb' 64 15).toNat = 16383 := by decide
  simp only [extReal, h1, h2, h3, signFactor]
  norm_num

/-- The value of -1.0. -/
theorem extReal_minus_one : extReal 0xBFFF8000000000000000 = -1 := by
  have h1 : (0xBFFF8000000000000000 : Extended).getLsbD 79 = true := by decide
  have h2 : ((0xBFFF8000000000000000 : Extended).extractLsb' 0 64).toNat = 2 ^ 63 := by decide
  have h3 : ((0xBFFF8000000000000000 : Extended).extractLsb' 64 15).toNat = 16383 := by decide
  simp only [extReal, h1, h2, h3, signFactor]
  norm_num

/-- The value of 4.0. -/
theorem extReal_four : extReal 0x40018000000000000000 = 4 := by
  have h1 : (0x40018000000000000000 : Extended).getLsbD 79 = false := by decide
  have h2 : ((0x40018000000000000000 : Extended).extractLsb' 0 64).toNat = 2 ^ 63 := by decide
  have h3 : ((0x40018000000000000000 : Extended).extractLsb' 64 15).toNat = 16385 := by decide
  simp only [extReal, h1, h2, h3, signFactor]
  norm_num

/-- 1 and 4, whose sum is not 0; 1 and -1, whose sum is 0; 1 and 1, whose difference is 0. -/
theorem witness_ArithmeticOfNumbers :
    (isNumber 0x3FFF8000000000000000 ∧ isNumber 0x40018000000000000000 ∧ isNumber 0xBFFF8000000000000000)
    ∧ extReal 0x3FFF8000000000000000 + extReal 0x40018000000000000000 ≠ 0
    ∧ extReal 0x3FFF8000000000000000 + extReal 0xBFFF8000000000000000 = 0
    ∧ extReal 0x40018000000000000000 - extReal 0x3FFF8000000000000000 ≠ 0
    ∧ extReal 0x3FFF8000000000000000 - extReal 0x3FFF8000000000000000 = 0 := by
  refine ⟨by unfold isNumber; decide, ?_, ?_, ?_, sub_self _⟩ <;>
    simp only [extReal_one, extReal_minus_one, extReal_four] <;> norm_num

theorem witness_ArithmeticOfNumbers_operands :
    let s := operandState 2 0x3FFF8000000000000000 0x4000C000000000000000
    isNumber (source1 registerOperands s) ∧ isNumber (source2 registerOperands s) := ⟨two_numbers.1, two_numbers.2.1⟩

theorem witness_SquareRoot :
    let s := operandState 2 0x3FFF8000000000000000 0x4000C000000000000000
    isNumber (source1 registerOperands s) ∧ extSign (source1 registerOperands s) = false :=
  ⟨two_numbers.1, two_numbers.2.2⟩

/-- The operands that SQRT and RTOI copy: -0, a nontrapping NaN, plus infinity. -/
theorem witness_copied_operands :
    isZero (source1 registerOperands (operandState 2 0x80000000000000000000 0)) = true
    ∧ classify (source1 registerOperands (operandState 2 0xFFFFC000000000000001 0)) = .quietNan
    ∧ isInfinity (source1 registerOperands (operandState 2 0x7FFF0000000000000000 0))
    ∧ extSign (source1 registerOperands (operandState 2 0x7FFF0000000000000000 0)) = false := by
  unfold isInfinity
  decide

theorem witness_Remainder :
    let s := operandState 2 0x3FFF8000000000000000 0x4000C000000000000000
    isNumber (source1 registerOperands s) ∧ isNumber (source2 registerOperands s) := ⟨two_numbers.1, two_numbers.2.1⟩

theorem witness_RoundToIntegral :
    isNumber (source1 registerOperands (operandState 2 0x3FFF8000000000000000 0x4000C000000000000000)) := two_numbers.1

/-- A number that is copied bit for bit, and one that is finished. -/
theorem witness_copiesNumber :
    keepsPattern .extended 0x00008000000000000001 ∧ isNumber 0x00008000000000000001
    ∧ ¬ keepsPattern .extended 0x3FFF8000000000000000 ∧ ¬ keepsPattern .single 0x00008000000000000001 := by
  unfold keepsPattern isNumber
  decide

/-- The registers a MOVE saves bit for bit: a zero, a denormalized and a normalized number, both of field 0, and a number,
an infinity and a nontrapping NaN. -/
theorem witness_MoveIsIdentity_register :
    classify 0x80000000000000000000 = .zero ∧ extExponent 0x80000000000000000000 = 0
    ∧ classify 0x00000000000000000001 = .normal ∧ extExponent 0x00000000000000000001 = 0
    ∧ classify 0x00008000000000000001 = .normal ∧ extExponent 0x00008000000000000001 = 0
    ∧ classify 0x3FFF8000000000000000 = .normal ∧ extJ 0x3FFF8000000000000000 = true
    ∧ isInfinity 0x7FFF0000000000000000 ∧ isNan 0xFFFF4000000000000001 = true
    ∧ classify 0xFFFF4000000000000001 = .quietNan := by
  unfold isInfinity
  decide

theorem witness_MoveFamily :
    isNumber (source1 registerOperands (operandState 2 0x3FFF8000000000000000 0))
    ∧ isInfinity (source1 registerOperands (operandState 2 0xFFFF0000000000000000 0))
    ∧ isZero (source1 registerOperands (operandState 2 0x80000000000000000000 0)) = true
    ∧ classify (source1 registerOperands (operandState 2 0xFFFFC000000000000001 0)) = .quietNan := by
  unfold isInfinity isNumber
  decide

theorem witness_MoveIsIdentity :
    (probe 2 [0x3F800000] []).modeLock = .peripheral ∧ { probe 2 [] [] with modeLock := .coprocessor }.modeLock = .coprocessor
    ∧ (probe 2 [0x3F800000] []).asr.um = false
    ∧ (probe 2 [0x3F800000] []).op1In = [0x3F800000] ∧ classify (widenSingle 0x3F800000) ≠ .trappingNan
    ∧ (probe 2 [0x3FF00000, 0x00000001] []).op1In = [0x3FF00000, 0x00000001]
    ∧ classify (widenDouble (0x3FF00000#32 ++ 0x00000001#32)) ≠ .trappingNan := by decide +kernel

/-- 5 by its digits, and a number just above 2^-2 by its leading 69 bits. -/
theorem witness_RoundingToGrid :
    standsFor ⟨false, 5, 0, false⟩ 5
    ∧ standsFor ⟨false, 2 ^ 68, -70, true⟩ (((2 : ℝ) ^ 68 + 1 / 2) * (2 : ℝ) ^ (-70 : ℤ))
    ∧ ((⟨false, 2 ^ 68, -70, true⟩ : Exact).sticky = true → (⟨false, 2 ^ 68, -70, true⟩ : Exact).exp < -1) := by
  refine ⟨⟨?_, ?_⟩, ⟨?_, ?_⟩, by decide⟩
  · norm_num [magnitude]
  · norm_num
  · have h : (0 : ℝ) < ((2 : ℝ) ^ 68 + 1 / 2) * (2 : ℝ) ^ (-70 : ℤ) := by positivity
    rw [if_pos rfl, abs_of_pos h]
    norm_num [magnitude]
  · norm_num

/-- 3 rounds to 3 on every grid below it: in range for single precision. -/
theorem witness_FinishInRange :
    standsFor ⟨false, 3, 0, false⟩ 3 ∧ (3 : ℝ) ≠ 0 ∧ leadingBit 3 1 ∧ roundsTo .nearest (1 - precBits .single + 1) 3 (3 * 2 ^ 22)
    ∧ |((3 * 2 ^ 22 : ℤ) : ℝ)| * (2 : ℝ) ^ ((1 : ℤ) - precBits .single + 1) < (2 : ℝ) ^ (precEmax .single + 1)
    ∧ (2 : ℝ) ^ precEmin .single ≤ |(3 : ℝ)| := by
  refine ⟨⟨by norm_num [magnitude], by norm_num⟩, by norm_num, ?_, ?_, ?_, ?_⟩
  · norm_num [leadingBit]
  · norm_num [roundsTo, precBits]
  · norm_num [precBits, precEmax]
  · norm_num [precEmin, precEmax]

/-- `Finish` signals inexact in range when forced, after a masked overflow, and after a masked underflow that loses
accuracy. -/
theorem witness_Finish_trap :
    (finish (Asr.ofWord 0x80000402) .single .nearest true ⟨false, 3, 0, false⟩).trap.isSome = true
    ∧ (finish (Asr.ofWord 0x80000402) .single .nearest false ⟨false, 1, 128, false⟩).trap.isSome = true
    ∧ (finish (Asr.ofWord 0x80000402) .single .nearest false ⟨false, 3, -150, false⟩).trap.isSome = true
    ∧ (finish (Asr.ofWord 0x80000402) .single .nearest false ⟨false, 3, -150, false⟩).us = true := by decide +kernel

/-- 2^128 is too large for single precision. -/
theorem witness_FinishOverflow :
    standsFor ⟨false, 1, 128, false⟩ ((2 : ℝ) ^ 128) ∧ (2 : ℝ) ^ 128 ≠ 0 ∧ leadingBit ((2 : ℝ) ^ 128) 128
    ∧ roundsTo .nearest (128 - precBits .single + 1) ((2 : ℝ) ^ 128) (2 ^ 23)
    ∧ (2 : ℝ) ^ (precEmax .single + 1) ≤ |((2 ^ 23 : ℤ) : ℝ)| * (2 : ℝ) ^ ((128 : ℤ) - precBits .single + 1) := by
  refine ⟨⟨by norm_num [magnitude], by norm_num⟩, by norm_num, ?_, ?_, ?_⟩
  · norm_num [leadingBit]
  · norm_num [roundsTo, precBits]
  · norm_num [precBits, precEmax]

/-- 2^-127 is below the single-precision normalized range, and exact on its denormalized grid. -/
theorem witness_FinishUnderflow :
    standsFor ⟨false, 1, -127, false⟩ ((2 : ℝ) ^ (-127 : ℤ)) ∧ (2 : ℝ) ^ (-127 : ℤ) ≠ 0
    ∧ leadingBit ((2 : ℝ) ^ (-127 : ℤ)) (-127)
    ∧ roundsTo .nearest (-127 - precBits .single + 1) ((2 : ℝ) ^ (-127 : ℤ)) (2 ^ 23)
    ∧ |(2 : ℝ) ^ (-127 : ℤ)| < (2 : ℝ) ^ precEmin .single
    ∧ |((2 ^ 23 : ℤ) : ℝ)| * (2 : ℝ) ^ ((-127 : ℤ) - precBits .single + 1) < (2 : ℝ) ^ precEmin .single
    ∧ roundsTo .nearest (precEmin .single - precBits .single + 1) ((2 : ℝ) ^ (-127 : ℤ)) (2 ^ 22)
    ∧ (Asr.ofWord 0x80001002).um = true ∧ (Asr.ofWord 0x80000002).um = false := by
  refine ⟨⟨by norm_num [magnitude], by norm_num⟩, by norm_num, ?_, ?_, ?_, ?_, ?_, by decide, by decide⟩
  · norm_num [leadingBit]
  · norm_num [roundsTo, precBits]
  · norm_num [precEmin, precEmax, abs_of_pos]
  · norm_num [precBits, precEmin, precEmax]
  · norm_num [roundsTo, precBits, precEmin, precEmax]

/-- Exponent fields at both ends, in both formats. -/
theorem witness_WideningKeepsValue :
    ((0x00000001 : Word).extractLsb' 23 8).toNat ≠ 255 ∧ ((0x7F7FFFFF : Word).extractLsb' 23 8).toNat ≠ 255
    ∧ ((0x7F800000 : Word).extractLsb' 23 8).toNat = 255
    ∧ ((0x7FEFFFFFFFFFFFFF : BitVec 64).extractLsb' 52 11).toNat ≠ 2047
    ∧ ((0x7FF0000000000001 : BitVec 64).extractLsb' 52 11).toNat = 2047 := by decide

/-- A fraction with its leading bit set. -/
theorem witness_EncodingKeepsValue_nan : (0x4000000000000001 : BitVec 63).getLsbD 62 = true := by decide

/-- The smallest denormalized number of each precision. -/
theorem witness_EncodingKeepsValue :
    ∀ p : Prec, 0 < 1 ∧ ((1 : ℕ) : ℝ) * (2 : ℝ) ^ precLeast p = (1 : ℕ) * (2 : ℝ) ^ precLeast p ∧ 1 < 2 ^ precBits p
      ∧ precLeast p ≤ precLeast p ∧ ((1 : ℕ) : ℝ) * (2 : ℝ) ^ precLeast p < (2 : ℝ) ^ (precEmax p + 1) := by
  intro p
  refine ⟨Nat.one_pos, rfl, by cases p <;> decide, le_refl _, ?_⟩
  rw [Nat.cast_one, one_mul]
  refine zpow_lt_zpow_right₀ (by norm_num) ?_
  cases p <;> decide

/-- Two numbers, a nontrapping and a trapping NaN, with and without IM. -/
theorem witness_CompareFlags :
    (let s := operandState 0x80000002 0x3FFF8000000000000000 0x7FFF0000000000000000
     isNan (source1 registerOperands s) = false ∧ isNan (source2 registerOperands s) = false
     ∧ classify (source1 registerOperands s) ≠ .trappingNan ∧ classify (source2 registerOperands s) ≠ .trappingNan)
    ∧ (let s := operandState 0x80000002 0x7FFFC000000000000000 0x3FFF8000000000000000
       isNan (source1 registerOperands s) = true ∧ invalidEnabled s.asr = false)
    ∧ (let s := operandState 0x80004002 0x3FFF8000000000000000 0x7FFF8000000000000001
       classify (source2 registerOperands s) = .trappingNan ∧ invalidEnabled s.asr = true) := by decide

/-- A NaN and an infinity to an integer or decimal in memory, signalled and not; a trapping and a nontrapping NaN. -/
theorem witness_conversion_special :
    (let s := operandState 0x80004002 0x7FFFC000000000000001 0
     isNan (source1 registerOperands s) = true ∧ classify (source1 registerOperands s) = .quietNan
     ∧ invalidEnabled s.asr = true)
    ∧ (let s := operandState 0x80000002 0x7FFF8000000000000001 0
       classify (source1 registerOperands s) = .trappingNan ∧ invalidEnabled s.asr = false)
    ∧ isInfinity (source1 registerOperands (operandState 2 0xFFFF0000000000000000 0))
    ∧ (∀ q p, Dst.mem .three ≠ .reg q p) := by
  refine ⟨by decide, by decide, by unfold isInfinity; decide, fun q p h => ?_⟩
  cases h

/-- The value of 1.5. -/
theorem extReal_one_half : extReal 0x3FFFC000000000000000 = 3 / 2 := by
  have h1 : (0x3FFFC000000000000000 : Extended).getLsbD 79 = false := by decide
  have h2 : ((0x3FFFC000000000000000 : Extended).extractLsb' 0 64).toNat = 3 * 2 ^ 62 := by decide
  have h3 : ((0x3FFFC000000000000000 : Extended).extractLsb' 64 15).toNat = 16383 := by decide
  simp only [extReal, h1, h2, h3, signFactor]
  norm_num

/-- 1.5 rounds to 2, which differs from it: the signalled inexact clauses of FTOI and FTOD, with PM = 1. -/
theorem witness_conversion_inexact :
    roundsTo .nearest 0 (extReal 0x3FFFC000000000000000) 2 ∧ ((2 : ℤ) : ℝ) ≠ extReal 0x3FFFC000000000000000
    ∧ (operandState 0x80000402 0x3FFFC000000000000000 0).asr.pm = true ∧ (2 : ℤ).natAbs < 10 ^ 18 := by
  rw [extReal_one_half]
  refine ⟨?_, by norm_num, by decide, by decide⟩
  norm_num [roundsTo]

/-- 4.0 to an integer in memory; every other mode gives the same integer. -/
theorem witness_FloatToInteger :
    (let s := operandState 2 0x40018000000000000000 0
     let o : Operands := ⟨.reg .f0, .none, .mem .one, none⟩
     isNan (source1 o s) = false ∧ ¬ isInfinity (source1 o s) ∧ (∀ q p, o.op3 ≠ .reg q p) ∧ s.modeLock = .peripheral
     ∧ roundsTo (roundMode o s) 0 (extReal (source1 o s)) 4 ∧ s.asr.pm = false) := by
  refine ⟨by decide, by unfold isInfinity; decide, fun q p => by simp, rfl, ?_, by decide⟩
  have h : roundMode ⟨.reg .f0, .none, .mem .one, none⟩ (operandState 2 0x40018000000000000000 0) = .nearest := by decide
  have h2 : source1 ⟨.reg .f0, .none, .mem .one, none⟩ (operandState 2 0x40018000000000000000 0)
      = 0x40018000000000000000 := rfl
  rw [h, h2, extReal_four]
  norm_num [roundsTo]

/-- The value of 2^62. -/
theorem extReal_large : extReal 0x403D8000000000000000 = 2 ^ 62 := by
  have h1 : (0x403D8000000000000000 : Extended).getLsbD 79 = false := by decide
  have h2 : ((0x403D8000000000000000 : Extended).extractLsb' 0 64).toNat = 2 ^ 63 := by decide
  have h3 : ((0x403D8000000000000000 : Extended).extractLsb' 64 15).toNat = 16445 := by decide
  simp only [extReal, h1, h2, h3, signFactor]
  norm_num

/-- 2^62 rounds to itself, above both 2^31 - 1 and 10^18. -/
theorem large_rounds : roundsTo .nearest 0 (extReal 0x403D8000000000000000) (2 ^ 62) := by
  rw [extReal_large]
  norm_num [roundsTo]

/-- 2^62, out of the integer range and of the decimal range; and the boundaries of the clauses. -/
theorem witness_conversion_overflow :
    (let s := operandState 2 0x403D8000000000000000 0
     let o : Operands := ⟨.reg .f0, .none, .mem .three, none⟩
     isNan (source1 o s) = false ∧ ¬ isInfinity (source1 o s) ∧ (∀ q p, o.op3 ≠ .reg q p) ∧ s.modeLock = .peripheral
     ∧ roundsTo (roundMode o s) 0 (extReal (source1 o s)) (2 ^ 62))
    ∧ (2147483647 : ℤ) < 2 ^ 62 ∧ 10 ^ 18 ≤ ((2 : ℤ) ^ 62).natAbs := by
  refine ⟨⟨by decide, by unfold isInfinity; decide, fun q p => by simp, rfl, ?_⟩, by norm_num, by decide⟩
  have h : roundMode ⟨.reg .f0, .none, .mem .three, none⟩ (operandState 2 0x403D8000000000000000 0) = .nearest := by decide
  rw [h]
  exact large_rounds

/-- 4.0 to a decimal of three words. -/
theorem witness_FloatToDecimal :
    (let s := operandState 2 0x40018000000000000000 0
     let o : Operands := ⟨.reg .f0, .none, .mem .three, none⟩
     isNan (source1 o s) = false ∧ ¬ isInfinity (source1 o s) ∧ o.op3 = .mem .three ∧ s.modeLock = .peripheral
     ∧ roundsTo (roundMode o s) 0 (extReal (source1 o s)) 4 ∧ s.asr.pm = false ∧ (4 : ℤ).natAbs < 10 ^ 18) := by
  refine ⟨by decide, by unfold isInfinity; decide, rfl, rfl, ?_, by decide, by decide⟩
  have h : roundMode ⟨.reg .f0, .none, .mem .three, none⟩ (operandState 2 0x40018000000000000000 0) = .nearest := by decide
  have h2 : source1 ⟨.reg .f0, .none, .mem .three, none⟩ (operandState 2 0x40018000000000000000 0)
      = 0x40018000000000000000 := rfl
  rw [h, h2, extReal_four]
  norm_num [roundsTo]

/-- Integers that are and are not 0, of one and three words; decimals +123 and +0. -/
theorem witness_ToFloat :
    (probe 2 [0x80000000] []).op1In.length = MemSize.one.words
    ∧ (probe 2 [0x80000000] []).op1In.getLast? = some 0x80000000 ∧ (0x80000000 : Word).toInt ≠ 0
    ∧ (probe 2 [5, 6, 0] []).op1In.length = MemSize.three.words ∧ (probe 2 [5, 6, 0] []).op1In.getLast? = some 0
    ∧ (0 : Word).toInt = 0
    ∧ decClassify (0#32 ++ 0#32 ++ 0x0000123C#32) = .number false 123
    ∧ decClassify (0#32 ++ 0#32 ++ 0x0000000C#32) = .number false 0
    ∧ decClassify (0#32 ++ 0#32 ++ 0x00000001#32) = .infinity true
    ∧ decClassify (0#32 ++ 0#32 ++ 0x00000003#32) = .signedNan true
    ∧ decClassify (0#32 ++ 0#32 ++ 0x00000004#32) = .trappingNan
    ∧ decClassify (0#32 ++ 0#32 ++ 0x000000AC#32) = .badDigitNan := by decide +kernel

theorem witness_ConversionRegisterInvalid :
    registerOperands.op3 = .reg .f2 .single ∧ registerOperands.op1 = .reg .f0
    ∧ invalidEnabled (operandState 0x80004002 0 0).asr = true ∧ isNan (source1 registerOperands (operandState 2 0 0)) = false
    ∧ ¬ isInfinity (source1 registerOperands (operandState 2 0 0)) :=
  ⟨rfl, rfl, by decide, by decide, by unfold isInfinity; decide⟩

/-- Each clause on decimal containers: the sign nibbles at the ends of the ranges, a digit of 9 and of 10. -/
theorem witness_ToFloat_decimal :
    (∀ sign ∈ ([0, 1, 2, 3, 4, 9, 10, 11, 15] : List ℕ), sign = ((BitVec.ofNat 96 sign).extractLsb' 0 4).toNat)
    ∧ (∀ k < 18, decimalDigit 0x9000000000000009B k < 10) ∧ ((0x9000000000000009B : Triple).extractLsb' 0 4).toNat = 11
    ∧ (∃ k < 18, 10 ≤ decimalDigit 0xA000000000000000F k) ∧ ((0xA000000000000000F : Triple).extractLsb' 0 4).toNat = 15 := by
  decide +kernel

/-- 1 is within the range of each function. -/
theorem witness_TrigEnclosure :
    isNumber 0x3FFF8000000000000000 ∧ ∀ fn, |extReal 0x3FFF8000000000000000| ≤ trigLimit fn := by
  have h := Real.pi_gt_three
  refine ⟨by unfold isNumber; decide, fun fn => ?_⟩
  rw [extReal_one, abs_one]
  cases fn <;> simp only [trigLimit] <;> linarith

/-- 1 is within the range of SIN, COS and ATAN, 4 beyond. -/
theorem witness_TrigRange :
    sineOrCosine .sin (.sin registerOperands) registerOperands ∧ sineOrCosine .cos (.cos registerOperands) registerOperands
    ∧ isNumber 0x3FFF8000000000000000 ∧ isNumber 0x40018000000000000000
    ∧ |extReal 0x3FFF8000000000000000| ≤ Real.pi / 2 ∧ Real.pi / 2 < |extReal 0x40018000000000000000|
    ∧ |extReal 0x3FFF8000000000000000| ≤ 1 ∧ 1 < |extReal 0x40018000000000000000| := by
  have h1 := Real.pi_gt_three
  have h2 := Real.pi_le_four
  rw [extReal_one, extReal_four, abs_one, abs_of_pos (by norm_num : (0 : ℝ) < 4)]
  refine ⟨.inl ⟨rfl, rfl⟩, .inr ⟨rfl, rfl⟩, by unfold isNumber; decide, by unfold isNumber; decide, ?_, ?_, le_refl _,
    by norm_num⟩ <;> linarith

theorem witness_TrigSpecialCases :
    isZero (source1 registerOperands (operandState 2 0x80000000000000000000 0)) = true
    ∧ classify (source1 registerOperands (operandState 2 0xFFFFC000000000000001 0)) = .quietNan
    ∧ isInfinity (source1 registerOperands (operandState 2 0xFFFF0000000000000000 0)) := by
  unfold isInfinity
  decide

/-- The three destinations, in each mode. -/
theorem witness_PiTable :
    (probe 2 [] []).asr.pm = false ∧ (probe 2 [] []).modeLock = .peripheral
    ∧ ∀ rc ∈ [RoundMode.nearest, .towardPlus, .towardMinus, .towardZero],
        roundMode ⟨.none, .none, .mem .one, some rc⟩ (probe 2 [] []) = rc := by decide

theorem witness_RawTransfers :
    State.reset.modeLock = .coprocessor ∧ (probe 2 [] []).modeLock = .peripheral
    ∧ ({ State.reset with op1In := [7] }.op1In).getLast? = some 7
    ∧ { State.reset with op1In := [7] }.op1In.length = MemSize.one.words
    ∧ { State.reset with op1In := [7, 8, 9] }.op1In = [7, 8, 9] := by decide

theorem witness_NoOperation :
    actsAsNop (.reserved19 ⟨.none, .none, .none, none⟩) ⟨.none, .none, .none, none⟩
    ∧ (∀ q p, Dst.none ≠ .reg q p) ∧ (probe 2 [] []).modeLock = .peripheral ∧ State.reset.modeLock = .coprocessor := by
  refine ⟨?_, fun q p => by simp, rfl, rfl⟩
  unfold actsAsNop
  simp

/-! ### Witnesses at the boundaries where clauses meet -/

/-- The integers at both ends of the range of FTOI and the one above it, which round to themselves. -/
theorem witness_FloatToInteger_bounds :
    (extReal 0xC01E8000000000000000 = -2147483648 ∧ roundsTo .nearest 0 (extReal 0xC01E8000000000000000) (-2147483648))
    ∧ (extReal 0x401DFFFFFFFE00000000 = 2147483647 ∧ roundsTo .nearest 0 (extReal 0x401DFFFFFFFE00000000) 2147483647)
    ∧ (extReal 0x401E8000000000000000 = 2147483648 ∧ roundsTo .nearest 0 (extReal 0x401E8000000000000000) 2147483648) := by
  have a : extReal 0xC01E8000000000000000 = -2147483648 := by
    have h1 : (0xC01E8000000000000000 : Extended).getLsbD 79 = true := by decide
    have h2 : ((0xC01E8000000000000000 : Extended).extractLsb' 0 64).toNat = 2 ^ 63 := by decide
    have h3 : ((0xC01E8000000000000000 : Extended).extractLsb' 64 15).toNat = 16414 := by decide
    simp only [extReal, h1, h2, h3, signFactor]
    norm_num
  have b : extReal 0x401DFFFFFFFE00000000 = 2147483647 := by
    have h1 : (0x401DFFFFFFFE00000000 : Extended).getLsbD 79 = false := by decide
    have h2 : ((0x401DFFFFFFFE00000000 : Extended).extractLsb' 0 64).toNat = 2147483647 * 2 ^ 33 := by decide
    have h3 : ((0x401DFFFFFFFE00000000 : Extended).extractLsb' 64 15).toNat = 16413 := by decide
    simp only [extReal, h1, h2, h3, signFactor]
    norm_num
  have c : extReal 0x401E8000000000000000 = 2147483648 := by
    have h1 : (0x401E8000000000000000 : Extended).getLsbD 79 = false := by decide
    have h2 : ((0x401E8000000000000000 : Extended).extractLsb' 0 64).toNat = 2 ^ 63 := by decide
    have h3 : ((0x401E8000000000000000 : Extended).extractLsb' 64 15).toNat = 16414 := by decide
    simp only [extReal, h1, h2, h3, signFactor]
    norm_num
  refine ⟨⟨a, ?_⟩, ⟨b, ?_⟩, ⟨c, ?_⟩⟩
  · rw [a]
    norm_num [roundsTo]
  · rw [b]
    norm_num [roundsTo]
  · rw [c]
    norm_num [roundsTo]

/-- 10^18 - 1 and 10^18, which round to themselves. -/
theorem witness_FloatToDecimal_bounds :
    (extReal 0x403ADE0B6B3A763FFFF0 = 10 ^ 18 - 1 ∧ roundsTo .nearest 0 (extReal 0x403ADE0B6B3A763FFFF0) (10 ^ 18 - 1))
    ∧ (extReal 0x403ADE0B6B3A76400000 = 10 ^ 18 ∧ roundsTo .nearest 0 (extReal 0x403ADE0B6B3A76400000) (10 ^ 18)) := by
  have a : extReal 0x403ADE0B6B3A763FFFF0 = 10 ^ 18 - 1 := by
    have h1 : (0x403ADE0B6B3A763FFFF0 : Extended).getLsbD 79 = false := by decide
    have h2 : ((0x403ADE0B6B3A763FFFF0 : Extended).extractLsb' 0 64).toNat = (10 ^ 18 - 1) * 2 ^ 4 := by decide
    have h3 : ((0x403ADE0B6B3A763FFFF0 : Extended).extractLsb' 64 15).toNat = 16442 := by decide
    simp only [extReal, h1, h2, h3, signFactor]
    norm_num
  have b : extReal 0x403ADE0B6B3A76400000 = 10 ^ 18 := by
    have h1 : (0x403ADE0B6B3A76400000 : Extended).getLsbD 79 = false := by decide
    have h2 : ((0x403ADE0B6B3A76400000 : Extended).extractLsb' 0 64).toNat = 10 ^ 18 * 2 ^ 4 := by decide
    have h3 : ((0x403ADE0B6B3A76400000 : Extended).extractLsb' 64 15).toNat = 16442 := by decide
    simp only [extReal, h1, h2, h3, signFactor]
    norm_num
  refine ⟨⟨a, ?_⟩, ⟨b, ?_⟩⟩
  · rw [a]
    norm_num [roundsTo]
  · rw [b]
    norm_num [roundsTo]

/-- The two double-extended neighbours of pi/2, and the number next above 1. -/
theorem witness_TrigRange_bounds :
    |extReal 0x3FFFC90FDAA22168C234| ≤ Real.pi / 2 ∧ Real.pi / 2 < |extReal 0x3FFFC90FDAA22168C235|
    ∧ 1 < |extReal 0x3FFF8000000000000001| := by
  have p1 := Real.pi_gt_d20
  have p2 := Real.pi_lt_d20
  have a : extReal 0x3FFFC90FDAA22168C234 = 14488038916154245684 / 2 ^ 63 := by
    have h1 : (0x3FFFC90FDAA22168C234 : Extended).getLsbD 79 = false := by decide
    have h2 : ((0x3FFFC90FDAA22168C234 : Extended).extractLsb' 0 64).toNat = 14488038916154245684 := by decide
    have h3 : ((0x3FFFC90FDAA22168C234 : Extended).extractLsb' 64 15).toNat = 16383 := by decide
    simp only [extReal, h1, h2, h3, signFactor]
    norm_num
  have b : extReal 0x3FFFC90FDAA22168C235 = 14488038916154245685 / 2 ^ 63 := by
    have h1 : (0x3FFFC90FDAA22168C235 : Extended).getLsbD 79 = false := by decide
    have h2 : ((0x3FFFC90FDAA22168C235 : Extended).extractLsb' 0 64).toNat = 14488038916154245685 := by decide
    have h3 : ((0x3FFFC90FDAA22168C235 : Extended).extractLsb' 64 15).toNat = 16383 := by decide
    simp only [extReal, h1, h2, h3, signFactor]
    norm_num
  have c : extReal 0x3FFF8000000000000001 = 9223372036854775809 / 2 ^ 63 := by
    have h1 : (0x3FFF8000000000000001 : Extended).getLsbD 79 = false := by decide
    have h2 : ((0x3FFF8000000000000001 : Extended).extractLsb' 0 64).toNat = 9223372036854775809 := by decide
    have h3 : ((0x3FFF8000000000000001 : Extended).extractLsb' 64 15).toNat = 16383 := by decide
    simp only [extReal, h1, h2, h3, signFactor]
    norm_num
  rw [a, b, c, abs_of_pos (by positivity), abs_of_pos (by positivity), abs_of_pos (by positivity)]
  refine ⟨?_, ?_, ?_⟩
  · norm_num at p1 ⊢
    linarith
  · norm_num at p2 ⊢
    linarith
  · norm_num

end Sys2Proof.Machine
end

section
/-! The ASR: the word it reads as, bit by bit (spec/10_state.md R25), what a software write of it leaves (R43), and the
status word (R34). -/

namespace Sys2Proof.Machine

/-- Bit `k` of the word an ASR reads as, after the table of spec/10_state.md R25: bits 30-26 are 0 (R41), bits 3-1 are the
version number 001 (R27). -/
def Asr.bit (a : Asr) : ℕ → Bool
  | 31 => a.ra
  | 25 => a.ecp
  | 24 => a.ntnc
  | 23 => a.rc.code.getLsbD 1
  | 22 => a.rc.code.getLsbD 0
  | 21 => a.n
  | 20 => a.z
  | 19 => a.io
  | 18 => a.ps
  | 17 => a.csc
  | 16 => a.uo
  | 15 => a.wf
  | 14 => a.im
  | 13 => a.om
  | 12 => a.um
  | 11 => a.qm
  | 10 => a.pm
  | 9 => a.is
  | 8 => a.os
  | 7 => a.us
  | 6 => a.qs
  | 5 => a.pr
  | 4 => a.uw
  | 1 => true
  | 0 => a.fe
  | _ => false

/-- The bits of the ASR word are those of the table. -/
theorem toWord_getLsbD (a : Asr) (k : ℕ) : a.toWord.getLsbD k = a.bit k := by
  by_cases hk : k < 32
  · simp only [Asr.toWord, BitVec.getLsbD_append]
    interval_cases k <;> simp [Asr.bit]
  · obtain ⟨j, rfl⟩ := Nat.exists_eq_add_of_le' (not_lt.mp hk)
    exact BitVec.getLsbD_of_ge _ _ (by omega)

/-- The codes of RC and its modes are in bijection (spec/10_state.md R38). -/
@[simp] theorem code_ofCode (c : BitVec 2) : (RoundMode.ofCode c).code = c := by
  revert c
  decide

/-- A word written to the ASR and read back: bits 30-26 are 0 and VER is 001 (spec/10_state.md R43). -/
theorem toWord_ofWord (w : Word) : (Asr.ofWord w).toWord = (w &&& 0x83FFFFF1#32) ||| 2#32 := by
  refine BitVec.eq_of_getLsbD_eq fun k hk => ?_
  rw [toWord_getLsbD]
  interval_cases k <;> simp [Asr.bit, Asr.ofWord]

/-- Everything a peripheral write in the quiescent state can do: start a command, leave DR unspecified, write the ASR. -/
theorem quiescentWrite_cases (obj : BitVec 3) (w : Word) (s : State) :
    (obj = 7 ∧ quiescentWrite obj w s = startCommand .peripheral w s)
    ∨ (4 ≤ obj.toNat ∧ obj ≠ 7 ∧ quiescentWrite obj w s = { s with dr := Config.freeDr s.draws })
    ∨ (obj.toNat < 4 ∧ quiescentWrite obj w s = { s with asr := Asr.ofWord w }) := by
  unfold quiescentWrite
  by_cases h7 : obj = 7
  · exact .inl ⟨h7, if_pos h7⟩
  · by_cases h4 : 4 ≤ obj.toNat
    · exact .inr (.inl ⟨h4, h7, by rw [if_neg h7, if_pos h4]⟩)
    · exact .inr (.inr ⟨not_le.mp h4, by rw [if_neg h7, if_neg h4]⟩)

/-- In the quiescent state a peripheral write is answered by DTACK#. -/
theorem periphWrite_quiescent (obj : BitVec 3) (w : Word) {s : State} (hs : s.phase = .quiescent) :
    periphWrite obj w s = respond (peripheralAnswer none) (quiescentWrite obj w s) := by
  unfold periphWrite
  rw [hs]

/-- A step that meets a quiescent peripheral write of an ASR object writes the ASR and nothing else
(spec/20_memory.md R91). -/
theorem step_asrWrite {s : State} {obj : BitVec 3} {w : Word} {rest : List BusEvent} (hs : s.phase = .quiescent)
    (hi : s.inbox = .periphWrite obj w :: rest) (ho : obj.toNat < 4) :
    step s = .next { onlyAnswered s rest ⟨false, true, false, none⟩ with asr := Asr.ofWord w } := by
  have hstep : step s = .next (periphWrite obj w { s with inbox := rest }) := by simp only [step, nextEvent, hi, react]
  rw [hstep, periphWrite_quiescent obj w (s := { s with inbox := rest }) hs]
  rcases quiescentWrite_cases obj w { s with inbox := rest } with ⟨rfl, -⟩ | ⟨h4, -, -⟩ | ⟨-, e⟩
  · exact absurd ho (by decide)
  · omega
  · rw [e]
    rfl

/-- Replacing PS in the ASR changes bit 18 of its word and no other. -/
theorem toWord_withPs (a : Asr) (b : Bool) :
    { a with ps := b }.toWord.getLsbD 18 = b ∧ ∀ k, k ≠ 18 → { a with ps := b }.toWord.getLsbD k = a.toWord.getLsbD k := by
  simp only [toWord_getLsbD]
  refine ⟨rfl, fun k hk => ?_⟩
  unfold Asr.bit
  split <;> simp_all

/-- Everything the status word can be: after a compare that is no restart the ASR with UO for PS, else the ASR. -/
theorem statusWord_cases (s : State) :
    (((currentInstr s).isCompare = true ∧ isRestart s = false) ∧ statusWord s = { s.asr with ps := s.asr.uo }.toWord)
    ∨ (¬ ((currentInstr s).isCompare = true ∧ isRestart s = false) ∧ statusWord s = s.asr.toWord) := by
  unfold statusWord
  by_cases h : (currentInstr s).isCompare = true ∧ isRestart s = false
  · exact .inl ⟨h, by simp [h]⟩
  · exact .inr ⟨h, if_neg (by simpa using h)⟩

end Sys2Proof.Machine
end

section
/-! What a step can do, said once: the cases of the reaction to every bus event (spec/20_memory.md R74 to R133,
spec/60_exceptions.md R440 to R444, spec/70_reset_and_hazards.md R471). The invariant and the frames of the step are
read off these cases, so that no proof about `step` walks through the phases again. -/

namespace Sys2Proof.Machine

/-- `Effect s e t`: the event `e` may take `s` to `t`. One constructor for each thing the MAU does; an access that changes
no MAU state is `answered`, whatever the event. -/
inductive Effect (s : State) : BusEvent → State → Prop
  | reset : Effect s .reset (resetMachine s)
  | answered (e : BusEvent) (out : BusOut) (nofault : out.fault = false)
      (haccess : e ≠ .reset ∧ e ≠ .piAck ∧ e ≠ .elapse := by simp) : Effect s e (respond out s)
  | writeCommand (w : Word) (hphase : ¬ inCoprocessor s) :
      Effect s (.periphWrite 7 w) (respond (peripheralAnswer none) (startCommand .peripheral w s))
  | writeDr (obj : BitVec 3) (w : Word) (hphase : s.phase = .quiescent) (h4 : 4 ≤ obj.toNat) (h7 : obj ≠ 7) :
      Effect s (.periphWrite obj w) (respond (peripheralAnswer none) { s with dr := Config.freeDr s.draws })
  | writeAsr (obj : BitVec 3) (w : Word) (hphase : s.phase = .quiescent) (h4 : obj.toNat < 4) :
      Effect s (.periphWrite obj w) (respond (peripheralAnswer none) { s with asr := Asr.ofWord w })
  | writeOperand (obj : BitVec 3) (w : Word) (k : ℕ) (hphase : s.phase = .pAwaitOperands k) (h7 : obj ≠ 7) :
      Effect s (.periphWrite obj w) (respond (peripheralAnswer none) (periphOperand w k s))
  | broadcastAborts (w : Word) (ok : Bool) (out : BusOut) (nofault : out.fault = false) :
      Effect s (.broadcast w ok) (respond out { abandon s with asr := asrCutShort s })
  | broadcastCommand (w : Word) (hid : w.extractLsb' 24 8 = 0) :
      Effect s (.broadcast w true) (respond ⟨true, false, false, none⟩ (startCommand .coprocessor w s))
  | fetchFaulted (w : Word) (dsize : BitVec 3) (ok : Bool) (k : ℕ) (hphase : s.phase = .cAwaitOperands k)
      (hsize : isWord dsize = false) (hfe : s.asr.fe = true) :
      Effect s (.dataFetch w dsize ok) (respond sizeFault { abandon s with asr := { s.asr with uw := true } })
  | fetchTaken (w : Word) (dsize : BitVec 3) (k : ℕ) (v : Word) (hphase : s.phase = .cAwaitOperands k) :
      Effect s (.dataFetch w dsize true) (respond .idle (coprocOperand v k s))
  | statusFirst (hphase : s.phase = .cDone) : Effect s .statusFetch (firstStatus s)
  | statusRepeated (word : Word) (fault : Bool) (hphase : s.phase ≠ .cDone) (hretry : s.statusRetry = some (word, fault)) :
      Effect s .statusFetch { s with bus := statusAnswer word fault }
  | wordFaulted (dsize : BitVec 3) (ok : Bool) (k : ℕ) (hphase : s.phase = .cAwaitWrites k)
      (hsize : isWord dsize = false) (hfe : s.asr.fe = true) :
      Effect s (.dataWrite dsize ok) (respond sizeFault { s with asr := { s.asr with uw := true, wf := true } })
  | wordFailed (dsize : BitVec 3) (k : ℕ) (out : BusOut) (nofault : out.fault = false)
      (hphase : s.phase = .cAwaitWrites k) :
      Effect s (.dataWrite dsize false) (respond out { s with asr := { s.asr with wf := s.asr.wf || s.asr.fe } })
  | wordTaken (dsize : BitVec 3) (k : ℕ) (out : BusOut) (nofault : out.fault = false)
      (hphase : s.phase = .cAwaitWrites k) :
      Effect s (.dataWrite dsize true) (respond out (wordWritten k s))
  | intAckAborts (hmode : s.modeLock = .coprocessor) (hphase : (∃ k, s.phase = .cAwaitOperands k) ∨ s.phase = .cExecuting) :
      Effect s .intAck (respond .idle (abortTransaction s))
  | intAckDiscards (hmode : s.modeLock = .coprocessor) (hphase : s.phase = .cDone ∨ ∃ k, s.phase = .cAwaitWrites k) :
      Effect s .intAck (respond .idle (abortResult s))
  | intAckQuiescent (hmode : s.modeLock = .coprocessor) (hphase : s.phase = .quiescent) :
      Effect s .intAck (respond .idle { s with asr := { s.asr with ra := s.asr.ra || Config.freeRa s.draws } })
  | piAck : Effect s .piAck (piAck s)
  | nothingRuns (hexec : isExecuting s = false) : Effect s .elapse { s with bus := .idle }
  | restarted (hexec : isExecuting s = true) (hready : operandsReady s = true) (hrestart : isRestart s = true) :
      Effect s .elapse (completeRestart s)
  | executed (t : State) (hexec : isExecuting s = true) (hready : operandsReady s = true) (hrestart : isRestart s = false)
      (hrun : exec (currentInstr s) s = .next t) : Effect s .elapse t

/-! ### Each handler does one of these -/

theorem periphRead_effect (obj : BitVec 3) (s : State) : Effect s (.periphRead obj) (periphRead obj s) := by
  unfold periphRead
  split <;> exact .answered _ _ rfl

theorem quiescentWrite_effect (obj : BitVec 3) (w : Word) {s : State} (hs : s.phase = .quiescent) :
    Effect s (.periphWrite obj w) (respond (peripheralAnswer none) (quiescentWrite obj w s)) := by
  rcases quiescentWrite_cases obj w s with ⟨rfl, e⟩ | ⟨h4, h7, e⟩ | ⟨h4, e⟩ <;> rw [e]
  · exact .writeCommand w (by simp [inCoprocessor, hs])
  · exact .writeDr obj w hs h4 h7
  · exact .writeAsr obj w hs h4

theorem periphWrite_effect (obj : BitVec 3) (w : Word) (s : State) :
    Effect s (.periphWrite obj w) (periphWrite obj w s) := by
  unfold periphWrite
  split
  case h_1 hs => exact quiescentWrite_effect obj w hs
  case h_2 k hs =>
    split
    · subst_vars; exact .writeCommand w (by simp [inCoprocessor, hs])
    · exact .writeOperand obj w k hs ‹_›
  case h_3 hs =>
    split
    · subst_vars; exact .writeCommand w (by simp [inCoprocessor, hs])
    · exact .answered _ _ rfl
  all_goals exact .answered _ _ rfl

theorem broadcast_effect (w : Word) (ok : Bool) (s : State) : Effect s (.broadcast w ok) (broadcast w ok s) := by
  unfold broadcast
  split
  · exact .broadcastAborts w ok _ rfl
  · next hid =>
    cases ok
    · exact .broadcastAborts w false _ rfl
    · exact .broadcastCommand w (not_not.mp hid)

theorem awaitedFetch_effect (w : Word) (dsize : BitVec 3) (ok : Bool) {k : ℕ} {s : State}
    (hs : s.phase = .cAwaitOperands k) : Effect s (.dataFetch w dsize ok) (awaitedFetch w dsize ok k s) := by
  unfold awaitedFetch
  split
  · next h =>
    simp only [Bool.and_eq_true, Bool.not_eq_true'] at h
    exact .fetchFaulted w dsize ok k hs h.1 h.2
  · cases ok
    · exact .answered _ _ rfl
    · rcases acceptFetch_cases (fetchedWord w dsize s) k s with ⟨-, e⟩ | ⟨v, -, e⟩ <;> rw [if_pos rfl, e]
      · exact .answered _ _ rfl
      · exact .fetchTaken w dsize k v hs

theorem dataFetch_effect (w : Word) (dsize : BitVec 3) (ok : Bool) (s : State) :
    Effect s (.dataFetch w dsize ok) (dataFetch w dsize ok s) := by
  unfold dataFetch
  split
  case h_1 k hs => exact awaitedFetch_effect w dsize ok hs
  all_goals exact .answered _ _ rfl

theorem laterStatus_effect {s : State} (hs : s.phase ≠ .cDone) : Effect s .statusFetch (laterStatus s) := by
  unfold laterStatus
  split
  · exact .statusRepeated _ _ hs ‹_›
  · exact .answered _ _ rfl

theorem statusFetch_effect (s : State) : Effect s .statusFetch (statusFetch s) := by
  unfold statusFetch
  split
  case h_1 hs => exact .statusFirst hs
  all_goals exact laterStatus_effect (by simp [*])

theorem awaitedWrite_effect (dsize : BitVec 3) (ok : Bool) {k : ℕ} {s : State} (hs : s.phase = .cAwaitWrites k) :
    Effect s (.dataWrite dsize ok) (awaitedWrite dsize ok k s) := by
  unfold awaitedWrite
  split
  · next h =>
    simp only [Bool.and_eq_true, Bool.not_eq_true'] at h
    exact .wordFaulted dsize ok k hs h.1 h.2
  · rcases acceptWrite_cases (drivenWord dsize k s) ok k s with ⟨-, e⟩ | ⟨-, rfl, e⟩ | ⟨-, rfl, e⟩ <;> rw [e]
    · exact .answered _ _ rfl
    · exact .wordTaken dsize k _ rfl hs
    · exact .wordFailed dsize k _ rfl hs

theorem dataWrite_effect (dsize : BitVec 3) (ok : Bool) (s : State) :
    Effect s (.dataWrite dsize ok) (dataWrite dsize ok s) := by
  unfold dataWrite
  split
  case h_1 k hs => exact awaitedWrite_effect dsize ok hs
  all_goals exact .answered _ _ rfl

theorem coprocIntAck_effect {s : State} (hmode : s.modeLock = .coprocessor) :
    Effect s .intAck (respond .idle (coprocIntAck s)) := by
  unfold coprocIntAck
  split
  case h_1 k hs => exact .intAckAborts hmode (.inl ⟨k, hs⟩)
  case h_2 hs => exact .intAckAborts hmode (.inr hs)
  case h_3 hs => exact .intAckDiscards hmode (.inl hs)
  case h_4 k hs => exact .intAckDiscards hmode (.inr ⟨k, hs⟩)
  case h_5 hs => exact .intAckQuiescent hmode hs
  all_goals exact .answered _ _ rfl

theorem intAck_effect (s : State) : Effect s .intAck (intAck s) := by
  unfold intAck
  cases hmode : s.modeLock with
  | peripheral => exact .answered _ _ rfl
  | coprocessor => exact coprocIntAck_effect hmode

theorem elapse_effect {s t : State} (h : elapse s = .next t) : Effect s .elapse t := by
  unfold elapse runCurrent at h
  split at h
  · next hexec =>
    split at h
    · next hready =>
      split at h
      · next hrestart => cases h; exact .restarted hexec hready hrestart
      · next hrestart => exact .executed t hexec hready (Bool.eq_false_iff.mpr hrestart) h
    · cases h
  · next hexec => cases h; exact .nothingRuns (Bool.eq_false_iff.mpr hexec)

/-! ### So does the step -/

/-- Everything the reaction to an event can do. -/
theorem react_effect {e : BusEvent} {s t : State} (h : react e s = .next t) : Effect s e t := by
  cases e with
  | reset => cases h; exact .reset
  | periphRead obj => cases h; exact periphRead_effect obj s
  | periphWrite obj w => cases h; exact periphWrite_effect obj w s
  | broadcast w ok => cases h; exact broadcast_effect w ok s
  | dataFetch w dsize ok => cases h; exact dataFetch_effect w dsize ok s
  | statusFetch => cases h; exact statusFetch_effect s
  | dataWrite dsize ok => cases h; exact dataWrite_effect dsize ok s
  | intAck => cases h; exact intAck_effect s
  | piAck => cases h; exact .piAck
  | elapse => exact elapse_effect h
  | highImpedance => cases h
  | shortReset => cases h
  | wrongDirection => cases h

/-- The event `e` happens in this step and leaves `rest` in the inbox: an empty inbox lets time pass (log 2, log 3). -/
def comesNext (s : State) (e : BusEvent) (rest : List BusEvent) : Prop :=
  s.inbox = e :: rest ∨ (s.inbox = [] ∧ e = .elapse ∧ rest = [])

theorem comesNext_elapse {s : State} {rest : List BusEvent} (h : comesNext s .elapse rest) : timePasses s := by
  rcases h with h | ⟨h, -, -⟩
  · exact .inr ⟨rest, h⟩
  · exact .inl h

theorem comesNext_access {s : State} {e : BusEvent} {rest : List BusEvent} (h : comesNext s e rest) (he : e ≠ .elapse) :
    s.inbox = e :: rest :=
  h.resolve_right fun hr => he hr.2.1

/-- Everything a step can do. -/
theorem step_effect {s t : State} (h : step s = .next t) :
    ∃ e rest, comesNext s e rest ∧ Effect { s with inbox := rest } e t := by
  unfold step nextEvent at h
  split at h
  · next hi =>
    have hs : { s with inbox := [] } = s := by rw [← hi]
    exact ⟨.elapse, [], .inr ⟨hi, rfl, rfl⟩, by rw [hs]; exact elapse_effect h⟩
  · next e rest hi => exact ⟨e, rest, .inl hi, react_effect h⟩

end Sys2Proof.Machine
end

section
/-! What executing an instruction leaves, field by field: the ASR, the registers, what is pending, DR
(spec/41_operation_model.md R262 to R265, spec/20_memory.md R98, R111). -/

namespace Sys2Proof.Machine

/-- The ASR after any instruction: that of an operation that sets CSC, or RA set by an exempt one, or what WRASR writes. -/
theorem exec_asr {i : Instr} {s t : State} (h : exec i s = .next t) :
    (i.exempt = false ∧ ∃ r, t.asr = asrAfter s.asr r)
    ∨ (i.exempt = true ∧ t.asr = asrCompleted s.asr)
    ∨ (i.exempt = true ∧ ∃ o, i = .wrasr o ∧ t.asr = Asr.ofWord (lastWordOp1 o s)) := by
  rcases exec_cases i s with ⟨r, hop, hr⟩ | ⟨hx, a, dr, v, image, hr, ha⟩
  · obtain rfl : completeOperation i.operands (keepsDr i) r s = t := by simpa [hr] using h
    have hx := operationOf_isSome i s
    rw [hop] at hx
    exact .inl ⟨by simpa using hx, r, (completeOperation_common ..).1⟩
  · obtain rfl : completeRaw i.operands a dr v image s = t := by simpa [hr] using h
    exact .inr (ha.imp (fun ha => ⟨hx, ha⟩) fun ⟨o, ho, ha⟩ => ⟨hx, o, ho, ha⟩)

/-- An operation that sets CSC leaves the bits software owns, WF and UW, and clears no sticky bit
(spec/41_operation_model.md R264). -/
theorem asrAfter_frame (a : Asr) (r : OpResult) :
    sameControls a (asrAfter a r) ∧ stickyKept a (asrAfter a r) := by
  simp +contextual [sameControls, stickyKept]

/-- The registers after any instruction: the destination written in peripheral mode, or all as they were. -/
theorem exec_regs {i : Instr} {s t : State} (h : exec i s = .next t) :
    t.regs = s.regs ∨ (s.modeLock = .peripheral ∧ ∃ v, t.regs = s.regs.write i.operands.op3 v) := by
  rcases exec_cases i s with ⟨r, -, hr⟩ | ⟨-, a, dr, v, image, hr, -⟩
  · obtain rfl : completeOperation i.operands (keepsDr i) r s = t := by simpa [hr] using h
    rw [completeOperation_regs]
    split
    · next hp => exact .inr ⟨hp.2, _, rfl⟩
    · exact .inl rfl
  · obtain rfl : completeRaw i.operands a dr v image s = t := by simpa [hr] using h
    rw [completeRaw_regs]
    unfold regsAfter
    split
    · next hp => exact .inr ⟨hp, v, rfl⟩
    · exact .inl rfl

/-- What any instruction leaves pending: nothing in peripheral mode or with an exception, else at most a result for the
destination. -/
theorem exec_pending {i : Instr} {s t : State} (h : exec i s = .next t) :
    (s.modeLock = .peripheral → t.pendingException = false ∧ t.pending = .nothing)
    ∧ (t.pendingException = true → t.pending = .nothing)
    ∧ (t.pending = .nothing ∨ ∃ v image, t.pending = pendingFor i.operands.op3 v image) := by
  rcases exec_cases i s with ⟨r, -, hr⟩ | ⟨-, a, dr, v, image, hr, -⟩
  · obtain rfl : completeOperation i.operands (keepsDr i) r s = t := by simpa [hr] using h
    obtain ⟨hx, hp⟩ := completeOperation_pending i.operands (keepsDr i) r s
    rw [hx, hp]
    refine ⟨fun hm => by simp [hm], fun hm => ?_, ?_⟩
    · simp only [Bool.and_eq_true] at hm
      exact if_pos (.inl hm.1)
    · split
      · exact .inl rfl
      · exact .inr ⟨_, _, rfl⟩
  · obtain rfl : completeRaw i.operands a dr v image s = t := by simpa [hr] using h
    rw [completeRaw_pendingException, completeRaw_pending]
    refine ⟨fun hm => by simp [hm], fun hm => by simp at hm, ?_⟩
    split
    · exact .inl rfl
    · exact .inr ⟨v, image, rfl⟩

/-- RDASR and EROF leave DR when their result is not read from it. -/
theorem drKept_unread {o : Operands} {s : State} (h : s.modeLock = .coprocessor ∨ ∀ n, o.op3 ≠ .mem n) (image : Triple) :
    drKept o image s = s.dr := by
  unfold drKept
  split
  · next n hn =>
    have hm := h.resolve_right fun hd => hd n hn
    simp [hm]
  all_goals rfl

/-- DR read from DR is DR. -/
theorem drKept_self (o : Operands) (s : State) : drKept o s.dr s = s.dr := by
  unfold drKept
  cases o.op3 with
  | mem n => exact ite_self _
  | reg r p => rfl
  | none => rfl

/-- EROF to a triple word delivers DR itself. -/
theorem erofImage_three {o : Operands} (s : State) (h : o.op3 = .mem .three) : erofImage o s = s.dr := by
  unfold erofImage
  rw [h]

/-- NOP leaves DR unless it has a memory destination. -/
theorem nopDr_unread {o : Operands} (s : State) (h : ∀ n, o.op3 ≠ .mem n) : nopDr o s = s.dr := by
  unfold nopDr
  split
  · next n hn => exact absurd hn (h n)
  all_goals rfl

/-- An instruction that does not use DR for its result leaves it (spec/60_exceptions.md R421; log 42). -/
theorem exec_leavesDr {i : Instr} {s t : State} (h : exec i s = .next t) (hl : leavesDr s.modeLock i) : t.dr = s.dr := by
  obtain ⟨o, ⟨hi, hd⟩ | ⟨rfl, hd⟩ | ⟨hi, hd⟩⟩ := hl
  · rcases hi with rfl | rfl <;> cases h <;> exact drKept_unread hd _
  · cases h
    exact (congrArg (drKept o · s) (erofImage_three s hd)).trans (drKept_self o s)
  · rcases hi with rfl | rfl | rfl | rfl | rfl | rfl <;> cases h <;> exact nopDr_unread s hd

end Sys2Proof.Machine
end

section
/-! The protocol invariant (spec/10_state.md R50 to R55): what the steps do keeps it. -/

namespace Sys2Proof.Machine

theorem isExecuting_iff (s : State) : isExecuting s = true ↔ s.phase = .pExecuting ∨ s.phase = .cExecuting := by
  simp [isExecuting]

/-- A quiescent state that holds no operand word and no result meets the invariant, whatever else it holds. -/
theorem inv_of_quiescent {s : State} (hphase : s.phase = .quiescent) (hlatches : latchesEmpty s) (hresult : noResult s) :
    s.Inv := by
  refine ⟨?_, .inr (.inl hphase)⟩
  simp only [phaseCoherent, hphase]
  exact ⟨hlatches, hresult⟩

/-- An answer ends the retry window, so the phase alone decides. -/
theorem inv_respond (out : BusOut) {s : State} (h : phaseCoherent s) : (respond out s).Inv := ⟨h, .inl rfl⟩

/-- A command just accepted has its words if it names none, and else awaits them all. -/
theorem startCommand_awaits (m : Mode) (w : Word) (s : State) :
    ((decode w).operands.wordsIn = 0 → operandsReady (startCommand m w s) = true)
    ∧ ((decode w).operands.wordsIn ≠ 0 → awaiting (decode w).operands.wordsIn (startCommand m w s)) := by
  have hc : currentInstr (startCommand m w s) = decode w := rfl
  simp only [operandsReady, awaiting, hc, startCommand_op1In, startCommand_op2In, Operands.wordsIn, List.length_nil]
  refine ⟨fun h => ?_, fun h => ⟨by omega, by omega, by omega, .inl trivial, by omega⟩⟩
  rw [Bool.and_eq_true, beq_iff_eq, beq_iff_eq]
  omega

/-- A command that is accepted leaves a coherent state; a coprocessor one is accepted from a broadcast with the MAU's
ID. -/
theorem startCommand_coherent {m : Mode} {w : Word} (s : State) (hid : m = .coprocessor → w.extractLsb' 24 8 = 0) :
    phaseCoherent (startCommand m w s) := by
  obtain ⟨hready, hawait⟩ := startCommand_awaits m w s
  unfold phaseCoherent
  rw [startCommand_phase]
  cases m <;> by_cases h : (decode w).operands.wordsIn = 0 <;> simp only [startPhase, h, if_true, if_false]
  · exact ⟨rfl, hready h, rfl, rfl, rfl⟩
  · exact ⟨rfl, hawait h, rfl, rfl, rfl⟩
  · exact ⟨⟨rfl, hid rfl⟩, hready h, rfl, rfl, rfl⟩
  · exact ⟨⟨rfl, hid rfl⟩, hawait h, rfl, rfl, rfl⟩

/-- Latching a word touches neither the mode, nor the command, nor a result. -/
theorem latchWord_unchanged (w : Word) (s : State) :
    (latchWord w s).modeLock = s.modeLock ∧ (latchWord w s).cr = s.cr ∧ (latchWord w s).asr = s.asr
    ∧ (latchWord w s).regs = s.regs ∧ (latchWord w s).dr = s.dr ∧ (noResult (latchWord w s) ↔ noResult s) := by
  rw [latchWord_frame]
  exact ⟨rfl, rfl, rfl, rfl, rfl, Iff.rfl⟩

/-- A peripheral operand word leads to the next word's phase or to the execution. -/
theorem periphOperand_coherent {k : ℕ} {s : State} (w : Word) (hphase : s.phase = .pAwaitOperands k)
    (h : phaseCoherent s) : phaseCoherent (periphOperand w k s) := by
  simp only [phaseCoherent, hphase] at h
  obtain ⟨hmode, hawait, hresult⟩ := h
  obtain ⟨hready, hnext⟩ := latchWord_awaiting w hawait
  obtain ⟨em, -, -, -, -, er⟩ := latchWord_unchanged w s
  by_cases hk : k ≤ 1 <;> simp only [phaseCoherent, periphOperand, hk, if_true, if_false]
  · exact ⟨em.trans hmode, hready hk, er.mpr hresult⟩
  · exact ⟨em.trans hmode, hnext (by omega), er.mpr hresult⟩

/-- So does a coprocessor operand word. -/
theorem coprocOperand_coherent {k : ℕ} {s : State} (w : Word) (hphase : s.phase = .cAwaitOperands k)
    (h : phaseCoherent s) : phaseCoherent (coprocOperand w k s) := by
  simp only [phaseCoherent, hphase] at h
  obtain ⟨⟨hmode, hid⟩, hawait, hresult⟩ := h
  obtain ⟨hready, hnext⟩ := latchWord_awaiting w hawait
  obtain ⟨em, ec, -, -, -, er⟩ := latchWord_unchanged w s
  have hfrom : (latchWord w s).modeLock = .coprocessor ∧ (latchWord w s).cr.extractLsb' 24 8 = 0 :=
    ⟨em.trans hmode, ec ▸ hid⟩
  by_cases hk : k ≤ 1 <;> simp only [phaseCoherent, coprocOperand, hk, if_true, if_false]
  · exact ⟨hfrom, hready hk, er.mpr hresult⟩
  · exact ⟨hfrom, hnext (by omega), er.mpr hresult⟩

/-- Everything the end of a status fetch can do: drop the transaction of an exception, end one without a result, write
the destination register, await the data writes. -/
theorem afterStatus_cases (s : State) :
    (s.pendingException = true ∧ afterStatus s = abandon s)
    ∨ (s.pendingException = false ∧ s.pending = .nothing ∧ afterStatus s = { abandon s with asr := clearWf s })
    ∨ (∃ r v, s.pendingException = false ∧ s.pending = .register r v
        ∧ afterStatus s = { abandon s with asr := clearWf s, regs := s.regs.set r v })
    ∨ (∃ image, s.pendingException = false ∧ s.pending = .words image
        ∧ afterStatus s = { s with done := false, phase := .cAwaitWrites (currentInstr s).operands.op3.words }) := by
  unfold afterStatus
  cases s.pendingException
  · cases s.pending with
    | nothing => exact .inr (.inl ⟨rfl, rfl, rfl⟩)
    | register r v => exact .inr (.inr (.inl ⟨r, v, rfl, rfl, rfl⟩))
    | words image => exact .inr (.inr (.inr ⟨image, rfl, rfl, rfl⟩))
  · exact .inl ⟨rfl, rfl⟩

/-- Every memory destination has words to be written. -/
theorem memSize_words_pos (n : MemSize) : 0 < n.words := by cases n <;> decide

/-- The status fetch ends the transaction, or awaits all words of a memory destination. -/
theorem firstStatus_inv {s : State} (hphase : s.phase = .cDone) (h : phaseCoherent s) : (firstStatus s).Inv := by
  simp only [phaseCoherent, hphase] at h
  obtain ⟨hfrom, hlatches, -, hfits, -⟩ := h
  unfold firstStatus
  rcases afterStatus_cases s with ⟨-, e⟩ | ⟨-, -, e⟩ | ⟨r, v, -, -, e⟩ | ⟨image, hx, hp, e⟩ <;> rw [e]
  case inr.inr.inr =>
    simp only [pendingFits, hp] at hfits
    obtain ⟨n, hn⟩ := hfits
    have hpos : 0 < (currentInstr s).operands.op3.words := by rw [hn]; exact memSize_words_pos n
    exact ⟨⟨hfrom, hlatches, rfl, hx, ⟨image, hp⟩, hpos, le_refl _⟩, .inr (.inr ⟨_, rfl⟩)⟩
  all_goals exact inv_of_quiescent rfl ⟨rfl, rfl⟩ ⟨rfl, rfl, rfl⟩

/-- A word written out leads to the next word's phase or ends the transaction. -/
theorem wordWritten_coherent {k : ℕ} {s : State} (hphase : s.phase = .cAwaitWrites k) (h : phaseCoherent s) :
    phaseCoherent (wordWritten k s) := by
  simp only [phaseCoherent, hphase] at h
  obtain ⟨hfrom, hlatches, hdone, hx, hp, -, hk⟩ := h
  unfold wordWritten
  split
  · exact (inv_of_quiescent rfl ⟨rfl, rfl⟩ ⟨rfl, rfl, rfl⟩).1
  · exact ⟨hfrom, hlatches, hdone, hx, hp, by omega, le_trans (Nat.sub_le k 1) hk⟩

/-- A result for the destination of the command fits it. -/
theorem pendingFits_of_pendingFor {s : State}
    (h : s.pending = .nothing ∨ ∃ v image, s.pending = pendingFor (currentInstr s).operands.op3 v image) :
    pendingFits s := by
  unfold pendingFits
  rcases h with h | ⟨v, image, h⟩ <;> rw [h]
  · trivial
  · cases hd : (currentInstr s).operands.op3 with
    | reg r p => exact ⟨p, rfl⟩
    | mem n => exact ⟨n, rfl⟩
    | none => trivial

/-- Everything a restart delivers: nothing, or the words of a memory destination. -/
theorem restartPending_cases (o : Operands) (dr : Triple) :
    restartPending o dr = .nothing ∨ ∃ v image, restartPending o dr = pendingFor o.op3 v image := by
  unfold restartPending
  cases o.op3 with
  | reg r p => exact .inl rfl
  | mem n => exact .inr ⟨0, dr, rfl⟩
  | none => exact .inl rfl

/-- While an operation executes no status fetch can be a retry. -/
theorem statusRetry_of_executing {s : State} (h : retryCoherent s) (hexec : isExecuting s = true) : s.statusRetry = none := by
  rcases (isExecuting_iff s).mp hexec with hphase | hphase <;> simpa [retryCoherent, hphase] using h

/-- An instruction that runs to its end leaves the MAU quiescent, or with DONE# asserted. -/
theorem exec_inv {s t : State} (h : s.Inv) (hexec : isExecuting s = true)
    (hrun : exec (currentInstr s) s = .next t) : t.Inv := by
  obtain ⟨hcr, hmode, hretry, -, hphase, h1, h2, -, hdone, -, -⟩ := exec_common hrun
  obtain ⟨hperiph, hexcepted, hpending⟩ := exec_pending hrun
  obtain ⟨hc, hr⟩ := h
  rcases (isExecuting_iff s).mp hexec with hp | hp <;> simp only [phaseCoherent, hp] at hc
  · obtain ⟨hm, -, -⟩ := hc
    obtain ⟨hx, hn⟩ := hperiph hm
    exact inv_of_quiescent (by simp [hphase, hm]) ⟨h1, h2⟩ ⟨by simp [hdone, hm], hx, hn⟩
  · obtain ⟨⟨hm, hid⟩, -, -⟩ := hc
    have hfits : pendingFits t := by
      have hi : currentInstr t = currentInstr s := by rw [currentInstr, hcr]; rfl
      exact pendingFits_of_pendingFor (by rw [hi]; exact hpending)
    have hd : t.phase = .cDone := by simp [hphase, hm]
    refine ⟨?_, .inl (hretry.trans (statusRetry_of_executing hr hexec))⟩
    simp only [phaseCoherent, hd]
    exact ⟨⟨hmode.trans hm, hcr ▸ hid⟩, ⟨h1, h2⟩, by simp [hdone, hm], hfits, hexcepted⟩

/-- So does a restart, which only a coprocessor command can be. -/
theorem completeRestart_inv {s : State} (h : s.Inv) (hexec : isExecuting s = true) (hrestart : isRestart s = true) :
    (completeRestart s).Inv := by
  obtain ⟨hc, hr⟩ := h
  have hm : s.modeLock = .coprocessor := by
    simp only [isRestart, Bool.and_eq_true, decide_eq_true_eq] at hrestart
    exact hrestart.1.1
  refine ⟨?_, .inl ((completeRestart_statusRetry s).trans (statusRetry_of_executing hr hexec))⟩
  rcases (isExecuting_iff s).mp hexec with hp | hp <;> simp only [phaseCoherent, hp] at hc
  · rw [hm] at hc
    cases hc.1
  · exact ⟨hc.1, ⟨rfl, rfl⟩, rfl, pendingFits_of_pendingFor (restartPending_cases _ s.dr), fun hx => by cases hx⟩

/-- Every effect of an event keeps the invariant. -/
theorem effect_inv {s t : State} {e : BusEvent} (h : Effect s e t) (hs : s.Inv) : t.Inv := by
  have hc := hs.1
  cases h with
  | reset => exact inv_of_quiescent rfl ⟨rfl, rfl⟩ ⟨rfl, rfl, rfl⟩
  | answered e out => exact inv_respond out hc
  | writeCommand w => exact inv_respond _ (startCommand_coherent s (by simp))
  | writeDr obj w => exact inv_respond _ hc
  | writeAsr obj w => exact inv_respond _ hc
  | writeOperand obj w k hphase => exact inv_respond _ (periphOperand_coherent w hphase hc)
  | broadcastAborts w ok out => exact inv_of_quiescent rfl ⟨rfl, rfl⟩ ⟨rfl, rfl, rfl⟩
  | broadcastCommand w hid => exact inv_respond _ (startCommand_coherent s fun _ => hid)
  | fetchFaulted => exact inv_of_quiescent rfl ⟨rfl, rfl⟩ ⟨rfl, rfl, rfl⟩
  | fetchTaken w dsize k v hphase => exact inv_respond _ (coprocOperand_coherent v hphase hc)
  | statusFirst hphase => exact firstStatus_inv hphase hc
  | statusRepeated word fault => exact hs
  | wordFaulted => exact inv_respond _ hc
  | wordFailed => exact inv_respond _ hc
  | wordTaken dsize k out nofault hphase => exact inv_respond _ (wordWritten_coherent hphase hc)
  | intAckAborts => exact inv_of_quiescent rfl ⟨rfl, rfl⟩ ⟨rfl, rfl, rfl⟩
  | intAckDiscards => exact inv_of_quiescent rfl ⟨rfl, rfl⟩ ⟨rfl, rfl, rfl⟩
  | intAckQuiescent => exact inv_respond _ hc
  | piAck => exact hs
  | nothingRuns => exact hs
  | restarted hexec _ hrestart => exact completeRestart_inv hs hexec hrestart
  | executed t hexec _ _ hrun => exact exec_inv hs hexec hrun

end Sys2Proof.Machine
end

section
/-! What a step leaves in the ASR, DR and the registers, read off its effects (spec/10_state.md R23, R26,
spec/60_exceptions.md R421). -/

namespace Sys2Proof.Machine

/-! ### FE, WF and UW -/

/-- FE stays, and while it is 0 neither WF nor UW becomes set (spec/10_state.md R26). -/
def featureKept (a b : Asr) : Prop :=
  b.fe = a.fe ∧ (a.fe = false → (b.wf = true → a.wf = true) ∧ (b.uw = true → a.uw = true))

/-- It is so when the three bits stay. -/
theorem featureKept_of_eq {a b : Asr} (hfe : b.fe = a.fe) (hwf : b.wf = a.wf) (huw : b.uw = a.uw) : featureKept a b :=
  ⟨hfe, fun _ => ⟨fun h => hwf ▸ h, fun h => huw ▸ h⟩⟩

/-- An operation cut short has not touched the ASR, or has written some of its flags and sticky bits. -/
theorem asrCutShort_cases (s : State) :
    (isExecuting s = false ∧ asrCutShort s = s.asr)
    ∨ (isExecuting s = true ∧ asrCutShort s = mixFlags (Config.cutShortWrote s.draws) (completedAsr s) s.asr) := by
  unfold asrCutShort
  cases isExecuting s
  · exact .inl ⟨rfl, rfl⟩
  · exact .inr ⟨rfl, rfl⟩

theorem asrCutShort_feature (s : State) : featureKept s.asr (asrCutShort s) := by
  rcases asrCutShort_cases s with ⟨-, e⟩ | ⟨-, e⟩ <;> rw [e] <;> exact featureKept_of_eq rfl rfl rfl

theorem latchWord_feature (w : Word) (s : State) : featureKept s.asr (latchWord w s).asr := by
  obtain ⟨-, -, e, -⟩ := latchWord_unchanged w s
  rw [e]
  exact featureKept_of_eq rfl rfl rfl

theorem clearWf_feature (s : State) : featureKept s.asr (clearWf s) :=
  ⟨rfl, fun _ => ⟨fun h => ((Bool.and_eq_true _ _).mp h).1, id⟩⟩

theorem exec_feature {i : Instr} {s t : State} (h : exec i s = .next t) (hi : ∀ o, i ≠ .wrasr o) :
    featureKept s.asr t.asr := by
  rcases exec_asr h with ⟨-, r, e⟩ | ⟨-, e⟩ | ⟨-, o, rfl, -⟩
  · rw [e]; exact featureKept_of_eq rfl rfl rfl
  · rw [e]; exact featureKept_of_eq rfl rfl rfl
  · exact absurd rfl (hi o)

theorem firstStatus_feature (s : State) : featureKept s.asr (firstStatus s).asr := by
  change featureKept s.asr (afterStatus s).asr
  rcases afterStatus_cases s with ⟨-, e⟩ | ⟨-, -, e⟩ | ⟨r, v, -, -, e⟩ | ⟨image, -, -, e⟩ <;> rw [e]
  · exact featureKept_of_eq rfl rfl rfl
  · exact clearWf_feature s
  · exact clearWf_feature s
  · exact featureKept_of_eq rfl rfl rfl

theorem wordWritten_feature (k : ℕ) (s : State) : featureKept s.asr (wordWritten k s).asr := by
  unfold wordWritten
  split
  · exact clearWf_feature s
  · exact featureKept_of_eq rfl rfl rfl

/-- Only software changes FE, and only with FE = 1 does the MAU set WF or UW: an effect that keeps neither is a quiescent
write of the ASR or the end of WRASR. -/
theorem effect_feature {s t : State} {e : BusEvent} (h : Effect s e t) :
    featureKept s.asr t.asr
    ∨ (s.phase = .quiescent ∧ ∃ obj w, e = .periphWrite obj w ∧ obj.toNat < 4)
    ∨ ((∃ o, currentInstr s = .wrasr o) ∧ isExecuting s = true ∧ e = .elapse) := by
  cases h with
  | writeAsr obj w hphase h4 => exact .inr (.inl ⟨hphase, obj, w, rfl, h4⟩)
  | executed t hexec _ _ hrun =>
    by_cases hw : ∃ o, currentInstr s = .wrasr o
    · exact .inr (.inr ⟨hw, hexec, rfl⟩)
    · exact .inl (exec_feature hrun (not_exists.mp hw))
  | reset => exact .inl (asrCutShort_feature s)
  | writeCommand w => exact .inl (asrCutShort_feature s)
  | broadcastAborts => exact .inl (asrCutShort_feature s)
  | broadcastCommand => exact .inl (asrCutShort_feature s)
  | writeOperand obj w => exact .inl (latchWord_feature w s)
  | fetchTaken w dsize k v => exact .inl (latchWord_feature v s)
  | fetchFaulted w dsize ok k hphase hsize hfe => exact .inl ⟨rfl, fun h0 => absurd (h0.symm.trans hfe) (by decide)⟩
  | wordFaulted dsize ok k hphase hsize hfe => exact .inl ⟨rfl, fun h0 => absurd (h0.symm.trans hfe) (by decide)⟩
  | wordFailed => exact .inl ⟨rfl, fun h0 => ⟨fun hw => by simpa [h0] using hw, id⟩⟩
  | statusFirst => exact .inl (firstStatus_feature s)
  | wordTaken dsize k => exact .inl (wordWritten_feature k s)
  | _ => exact .inl (featureKept_of_eq rfl rfl rfl)

/-! ### DR -/

/-- The status fetch leaves DR. -/
theorem firstStatus_dr (s : State) : (firstStatus s).dr = s.dr := by
  change (afterStatus s).dr = s.dr
  rcases afterStatus_cases s with ⟨-, e⟩ | ⟨-, -, e⟩ | ⟨r, v, -, -, e⟩ | ⟨image, -, -, e⟩ <;> rw [e] <;> rfl

/-- A data write leaves DR and the registers. -/
theorem wordWritten_unchanged (k : ℕ) (s : State) :
    (wordWritten k s).dr = s.dr ∧ (wordWritten k s).regs = s.regs := by
  unfold wordWritten
  split <;> exact ⟨rfl, rfl⟩

/-- An abort leaves DR unless the operation had begun and was no restart. -/
theorem abortTransaction_dr {s : State} (h : (abortTransaction s).dr ≠ s.dr) :
    isExecuting s = true ∧ isRestart s = false := by
  by_contra hn
  have hb : ¬ (isExecuting s && !isRestart s) = true := by simpa using hn
  exact h (if_neg hb)

/-- Only four effects change DR: an operation that does not leave it completes or is aborted, or a peripheral write names
a DR object or brings an operand word. -/
theorem effect_dr {s t : State} {e : BusEvent} (h : Effect s e t) (hd : t.dr ≠ s.dr) :
    (e = .elapse ∧ isExecuting s = true ∧ isRestart s = false ∧ ¬ leavesDr s.modeLock (currentInstr s))
    ∨ (e = .intAck ∧ s.phase = .cExecuting ∧ isRestart s = false ∧ s.modeLock = .coprocessor)
    ∨ ∃ obj w, e = .periphWrite obj w
        ∧ ((s.phase = .quiescent ∧ 4 ≤ obj.toNat ∧ obj ≠ 7) ∨ ((∃ k, s.phase = .pAwaitOperands k) ∧ obj ≠ 7)) := by
  cases h with
  | executed t hexec _ hrestart hrun =>
    exact .inl ⟨rfl, hexec, hrestart, fun hl => hd (exec_leavesDr hrun hl)⟩
  | intAckAborts hmode hphase =>
    obtain ⟨hexec, hrestart⟩ := abortTransaction_dr hd
    have hp := hphase.resolve_left fun ⟨k, hk⟩ => by simp [isExecuting_iff, hk] at hexec
    exact .inr (.inl ⟨rfl, hp, hrestart, hmode⟩)
  | writeDr obj w hphase h4 h7 => exact .inr (.inr ⟨obj, w, rfl, .inl ⟨hphase, h4, h7⟩⟩)
  | writeOperand obj w k hphase h7 => exact .inr (.inr ⟨obj, w, rfl, .inr ⟨⟨k, hphase⟩, h7⟩⟩)
  | fetchTaken w dsize k v =>
    obtain ⟨-, -, -, -, ed, -⟩ := latchWord_unchanged v s
    exact absurd ed hd
  | statusFirst => exact absurd (firstStatus_dr s) hd
  | wordTaken dsize k => exact absurd (wordWritten_unchanged k s).1 hd
  | _ => exact absurd rfl hd

/-! ### Registers -/

/-- The status fetch writes a pending register result and no other register. -/
theorem firstStatus_regs {s : State} {q : Reg} (hq : (firstStatus s).regs.get q ≠ s.regs.get q) :
    s.pendingException = false ∧ ∃ v, s.pending = .register q v ∧ (firstStatus s).regs.get q = v := by
  change (afterStatus s).regs.get q ≠ s.regs.get q at hq
  change _ ∧ ∃ v, _ ∧ (afterStatus s).regs.get q = v
  rcases afterStatus_cases s with ⟨-, e⟩ | ⟨-, -, e⟩ | ⟨r, v, hx, hp, e⟩ | ⟨image, -, -, e⟩ <;> rw [e] at hq ⊢
  case inr.inr.inl =>
    have hr : q = r := by
      by_contra hne
      exact hq (regs_get_set_ne s.regs v hne)
    subst hr
    exact ⟨hx, v, hp, regs_get_set_self s.regs q v⟩
  all_goals exact absurd rfl hq

/-- An instruction changes a register only as its destination, and only in peripheral mode. -/
theorem exec_changesReg {i : Instr} {s t : State} {q : Reg} (h : exec i s = .next t)
    (hq : t.regs.get q ≠ s.regs.get q) : s.modeLock = .peripheral ∧ ∃ p, i.operands.op3 = .reg q p := by
  rcases exec_regs h with e | ⟨hm, v, e⟩ <;> rw [e] at hq
  · exact absurd rfl hq
  · refine ⟨hm, ?_⟩
    by_contra hne
    exact hq (regs_write_other s.regs _ v (not_exists.mp hne))

/-- Only two effects change a register: an operation completes in peripheral mode, or a status fetch delivers the
result that is pending for it. -/
theorem effect_regs {s t : State} {e : BusEvent} {q : Reg} (h : Effect s e t) (hq : t.regs.get q ≠ s.regs.get q) :
    (e = .elapse ∧ isExecuting s = true ∧ s.modeLock = .peripheral ∧ ∃ p, (currentInstr s).operands.op3 = .reg q p)
    ∨ (e = .statusFetch ∧ s.phase = .cDone ∧ s.pendingException = false
        ∧ ∃ v, s.pending = .register q v ∧ t.regs.get q = v) := by
  cases h with
  | executed t hexec _ _ hrun => exact .inl ⟨rfl, hexec, exec_changesReg hrun hq⟩
  | statusFirst hphase => exact .inr ⟨rfl, hphase, firstStatus_regs hq⟩
  | writeOperand obj w k =>
    obtain ⟨-, -, -, er, -⟩ := latchWord_unchanged w s
    exact absurd (congrArg (RegFile.get · q) er) hq
  | fetchTaken w dsize k v =>
    obtain ⟨-, -, -, er, -⟩ := latchWord_unchanged v s
    exact absurd (congrArg (RegFile.get · q) er) hq
  | wordTaken dsize k => exact absurd (congrArg (RegFile.get · q) (wordWritten_unchanged k s).2) hq
  | _ => exact absurd rfl hq

end Sys2Proof.Machine
end

section
/-! The obligations of the state: O5 and O6 (the invariant), O29 and O13 (what changes registers and DR, the frame of
every instruction), O8, O10, O12 and O24 (the ASR). -/

open Sys2Proof Sys2Proof.Machine

/-- Settles O5: every effect of an event keeps the invariant, and the event leaves the inbox out of it. -/
theorem invariantKept : Obligations.InvariantKept := by
  intro s t hs hstep
  obtain ⟨e, rest, -, h⟩ := step_effect hstep
  exact effect_inv h hs

/-- Settles O29: of all effects, those of `effect_dr` change DR and those of `effect_regs` a register. -/
theorem registerChanges : Obligations.RegisterChanges := by
  refine ⟨fun s t hstep hd => ?_, fun s t q hstep hq => ?_⟩ <;> obtain ⟨e, rest, hnext, h⟩ := step_effect hstep
  · rcases effect_dr h hd with ⟨rfl, hexec, hrestart, hl⟩ | ⟨rfl, hphase, hrestart, hm⟩ | ⟨obj, w, rfl, hobj⟩
    · exact .inl ⟨hexec, hrestart, comesNext_elapse hnext, hl⟩
    · exact .inr (.inl ⟨hphase, hrestart, hm, rest, comesNext_access hnext (by simp)⟩)
    · exact .inr (.inr ⟨obj, w, rest, comesNext_access hnext (by simp), hobj⟩)
  · rcases effect_regs h hq with ⟨rfl, hexec, hm, hdst⟩ | ⟨rfl, hphase, hx, v, hp, hv⟩
    · exact .inl ⟨hexec, hm, comesNext_elapse hnext, hdst⟩
    · exact .inr ⟨hphase, hx, v, rest, hp, comesNext_access hnext (by simp), hv⟩

/-- Settles O10: the word read back is compared bit by bit, the write is one step. -/
theorem asrWrittenThenRead : Obligations.AsrWrittenThenRead :=
  ⟨toWord_ofWord, fun _ _ _ _ hs hi ho => step_asrWrite hs hi ho⟩

/-- Settles O12: the effects that do not keep FE, WF and UW are the two software writes. -/
theorem featureEnable : Obligations.FeatureEnable := by
  refine ⟨fun s obj w rest hs hi ho => ⟨_, step_asrWrite hs hi ho, rfl⟩, fun a => toWord_getLsbD a 0, ?_⟩
  intro s t hstep hsoft
  obtain ⟨e, rest, hnext, h⟩ := step_effect hstep
  rcases effect_feature h with hk | ⟨hphase, obj, w, rfl, h4⟩ | ⟨hw, hexec, rfl⟩
  · exact hk
  · exact absurd (.inl ⟨hphase, obj, w, rest, comesNext_access hnext (by simp), h4⟩) hsoft
  · exact absurd (.inr ⟨hw, hexec, comesNext_elapse hnext⟩) hsoft

/-- Settles O13: every instruction ends in one of the forms of `exec_asr`, `exec_regs` and `exec_common`. -/
theorem instructionFrame : Obligations.InstructionFrame := by
  intro i s
  obtain ⟨t, h⟩ := exec_next i s
  obtain ⟨hcr, hmode, hretry, hinbox, -, h1, h2, -⟩ := exec_common h
  refine ⟨t, h, fun hx => ?_, fun hx hw => ?_, fun q hq => ?_, fun hm => ?_, hcr, hmode, hinbox, hretry, h1, h2⟩
  · rcases exec_asr h with ⟨-, r, e⟩ | ⟨hx', -⟩ | ⟨hx', -⟩
    · obtain ⟨hcontrols, hsticky⟩ := asrAfter_frame s.asr r
      rw [e]
      exact ⟨rfl, rfl, hcontrols, hsticky, rfl, rfl⟩
    · simp [hx] at hx'
    · simp [hx] at hx'
  · rcases exec_asr h with ⟨hx', -⟩ | ⟨-, e⟩ | ⟨-, o, ho, -⟩
    · simp [hx] at hx'
    · exact e
    · exact absurd ho (hw o)
  · by_contra hne
    obtain ⟨-, p, hp⟩ := exec_changesReg h hne
    exact hq p hp
  · refine (exec_regs h).resolve_right fun hp => ?_
    rw [hm] at hp
    cases hp.1

/-- Settles O24: the status word differs from the ASR's at most in the bit of PS. -/
theorem statusWordOfCompare : Obligations.StatusWordOfCompare := by
  intro s
  obtain ⟨h18, hother⟩ := toWord_withPs s.asr s.asr.uo
  rcases statusWord_cases s with ⟨⟨hc, -⟩, e⟩ | ⟨hc, e⟩ <;> rw [e]
  · exact ⟨fun _ _ => h18, fun h => absurd (h.symm.trans hc) (by decide), hother⟩
  · exact ⟨fun hr h => absurd ⟨h, hr⟩ hc, fun _ => rfl, fun _ _ => rfl⟩

/-- Settles O6: reset leaves the quiescent state with empty latches and no result. -/
theorem invariantAtReset : Obligations.InvariantAtReset := inv_of_quiescent rfl ⟨rfl, rfl⟩ ⟨rfl, rfl, rfl⟩

/-- Settles O8: each clause is a field of the reset state; VER and bits 30-26 are read off its ASR word. -/
theorem resetState : Obligations.ResetState := by
  unfold Obligations.ResetState
  decide
end

section
/-! One access, one step: the equation of each bus handler in each phase (spec/20_memory.md R85 to R126). -/

namespace Sys2Proof.Machine

/-- A step meets the first event of the inbox. -/
theorem step_event {s : State} {e : BusEvent} {rest : List BusEvent} (h : s.inbox = e :: rest) :
    step s = react e { s with inbox := rest } := by
  simp only [step, nextEvent, h]

/-! ### Peripheral accesses -/

/-- Everything a peripheral read can do: answer, with a word that depends on the phase (spec/20_memory.md R90). -/
theorem periphRead_cases (obj : BitVec 3) (s : State) :
    (s.phase = .quiescent ∧ periphRead obj s = respond (peripheralAnswer (some (objectWord obj s))) s)
    ∨ (((∃ k, s.phase = .pAwaitOperands k) ∨ s.phase = .pExecuting)
        ∧ periphRead obj s = respond (peripheralAnswer (some (busyWord obj s))) s)
    ∨ (inCoprocessor s ∧ periphRead obj s = respond (ignoredAnswer (some (Config.freeBusWord s.draws))) s) := by
  unfold periphRead inCoprocessor
  cases s.phase <;> simp

/-- Objects 0 to 3 are the ASR. -/
theorem objectWord_asr {obj : BitVec 3} (s : State) (h : obj.toNat < 4) : objectWord obj s = s.asr.toWord := by
  have hobj : obj.toNat = 0 ∨ obj.toNat = 1 ∨ obj.toNat = 2 ∨ obj.toNat = 3 := by omega
  unfold objectWord
  rcases hobj with h0 | h0 | h0 | h0 <;> simp only [h0]

/-- Objects 4 to 6 are the words of DR, the most significant one first (spec/20_memory.md R88). -/
theorem objectWord_dr (obj : BitVec 3) (s : State) :
    (obj.toNat = 4 → objectWord obj s = s.dr.extractLsb' 64 32)
    ∧ (obj.toNat = 5 → objectWord obj s = s.dr.extractLsb' 32 32)
    ∧ (obj.toNat = 6 → objectWord obj s = s.dr.extractLsb' 0 32) := by
  unfold objectWord
  refine ⟨?_, ?_, ?_⟩ <;> intro h <;> rw [h] <;> rfl

/-- While operand words are awaited an ASR object shows the ASR. -/
theorem busyWord_awaiting {obj : BitVec 3} {s : State} {k : ℕ} (hs : s.phase = .pAwaitOperands k) (h : obj.toNat < 4) :
    busyWord obj s = s.asr.toWord := by
  unfold busyWord
  rw [if_neg (not_le.mpr h), if_neg (by simp [isExecuting_iff, hs])]

/-- While an operation executes an ASR object shows RA in bit 31 (spec/20_memory.md R97). -/
theorem busyWord_executing {obj : BitVec 3} {s : State} (hs : s.phase = .pExecuting) (h : obj.toNat < 4) :
    (busyWord obj s).getLsbD 31 = s.asr.ra := by
  unfold busyWord
  rw [if_neg (not_le.mpr h), if_pos ((isExecuting_iff s).mpr (.inl hs)), toWord_getLsbD]
  rfl

/-- In a coprocessor transaction a peripheral write is only answered, if at all (spec/20_memory.md R118). -/
theorem periphWrite_inCoprocessor (obj : BitVec 3) (w : Word) {s : State} (hs : inCoprocessor s) :
    periphWrite obj w s = respond (ignoredAnswer none) s := by
  unfold periphWrite
  rcases hs with ⟨k, hs⟩ | hs | hs | ⟨k, hs⟩ <;> rw [hs]

/-- While a peripheral operation executes a write to another object than CR is only answered (spec/20_memory.md R91). -/
theorem periphWrite_executing {obj : BitVec 3} (w : Word) {s : State} (hs : s.phase = .pExecuting) (h7 : obj ≠ 7) :
    periphWrite obj w s = respond (peripheralAnswer none) s := by
  unfold periphWrite
  rw [hs]
  exact congrArg (respond _) (if_neg h7)

/-- A write to another object than CR brings an awaited operand word (spec/20_memory.md R96). -/
theorem periphWrite_operand {obj : BitVec 3} (w : Word) {k : ℕ} {s : State} (hs : s.phase = .pAwaitOperands k)
    (h7 : obj ≠ 7) : periphWrite obj w s = respond (peripheralAnswer none) (periphOperand w k s) := by
  unfold periphWrite
  rw [hs]
  exact congrArg (respond _) (if_neg h7)

/-- Outside coprocessor transactions a write to CR starts a command in every phase (spec/20_memory.md R94). -/
theorem periphWrite_command (w : Word) {s : State} (hs : ¬ inCoprocessor s) :
    periphWrite 7 w s = respond (peripheralAnswer none) (startCommand .peripheral w s) := by
  unfold periphWrite quiescentWrite
  unfold inCoprocessor at hs
  cases hphase : s.phase <;> simp [hphase] at hs ⊢

/-! ### What a new command keeps of the ASR, and what a word does to the latches -/

/-- An operation cut short has not touched the bits software owns, nor RA. -/
theorem asrCutShort_frame (s : State) : sameControls s.asr (asrCutShort s) ∧ (asrCutShort s).ra = s.asr.ra := by
  rcases asrCutShort_cases s with ⟨-, e⟩ | ⟨-, e⟩ <;> rw [e] <;> simp [sameControls]

/-- A word goes to Op1's latch until it is full, then to Op2's (spec/20_memory.md R76). -/
theorem latchWord_latches (w : Word) (s : State) :
    if s.op1In.length < (currentInstr s).operands.op1.words then
      (latchWord w s).op1In = s.op1In ++ [w] ∧ (latchWord w s).op2In = s.op2In
    else (latchWord w s).op1In = s.op1In ∧ (latchWord w s).op2In = s.op2In ++ [w] := by
  rcases latchWord_cases w s with ⟨h, e⟩ | ⟨h, e⟩ <;> rw [e]
  · rw [if_pos h]
    exact ⟨rfl, rfl⟩
  · rw [if_neg (not_lt.mpr h)]
    exact ⟨rfl, rfl⟩

/-- The last operand word starts the operation, another leaves one word less to come. -/
theorem periphOperand_phase (w : Word) (k : ℕ) (s : State) :
    (k = 1 → (periphOperand w k s).phase = .pExecuting)
    ∧ (1 < k → (periphOperand w k s).phase = .pAwaitOperands (k - 1)) :=
  ⟨fun hk => if_pos hk.le, fun hk => if_neg (not_le.mpr hk)⟩

theorem coprocOperand_phase (w : Word) (k : ℕ) (s : State) :
    (k = 1 → (coprocOperand w k s).phase = .cExecuting)
    ∧ (1 < k → (coprocOperand w k s).phase = .cAwaitOperands (k - 1)) :=
  ⟨fun hk => if_pos hk.le, fun hk => if_neg (not_le.mpr hk)⟩

/-! ### Coprocessor accesses -/

/-- Everything a broadcast can do: abort for a foreign ID, abort for a bus exception, start the command
(spec/20_memory.md R106, R107, R114). -/
theorem broadcast_cases (w : Word) (ok : Bool) (s : State) :
    (w.extractLsb' 24 8 ≠ 0 ∧ broadcast w ok s = respond .idle { abandon s with asr := asrCutShort s })
    ∨ (w.extractLsb' 24 8 = 0 ∧ ok = false
        ∧ broadcast w ok s = respond ⟨true, false, false, none⟩ { abandon s with asr := asrCutShort s })
    ∨ (w.extractLsb' 24 8 = 0 ∧ ok = true
        ∧ broadcast w ok s = respond ⟨true, false, false, none⟩ (startCommand .coprocessor w s)) := by
  unfold broadcast
  by_cases hid : w.extractLsb' 24 8 = 0
  · cases ok
    · exact .inr (.inl ⟨hid, rfl, if_neg (not_not.mpr hid)⟩)
    · exact .inr (.inr ⟨hid, rfl, if_neg (not_not.mpr hid)⟩)
  · exact .inl ⟨hid, if_pos hid⟩

/-- A data fetch that no phase awaits is not answered (spec/20_memory.md R119). -/
theorem dataFetch_unexpected (w : Word) (dsize : BitVec 3) (ok : Bool) {s : State}
    (hs : ∀ k, s.phase ≠ .cAwaitOperands k) : dataFetch w dsize ok s = respond .idle s := by
  unfold dataFetch
  split
  case h_1 k hk => exact absurd hk (hs k)
  all_goals rfl

theorem dataFetch_awaited (w : Word) (dsize : BitVec 3) (ok : Bool) {k : ℕ} {s : State}
    (hs : s.phase = .cAwaitOperands k) : dataFetch w dsize ok s = awaitedFetch w dsize ok k s := by
  unfold dataFetch
  rw [hs]

/-- A data write that no phase awaits is not answered (spec/20_memory.md R119). -/
theorem dataWrite_unexpected (dsize : BitVec 3) (ok : Bool) {s : State} (hs : ∀ k, s.phase ≠ .cAwaitWrites k) :
    dataWrite dsize ok s = respond .idle s := by
  unfold dataWrite
  split
  case h_1 k hk => exact absurd hk (hs k)
  all_goals rfl

theorem dataWrite_awaited (dsize : BitVec 3) (ok : Bool) {k : ℕ} {s : State} (hs : s.phase = .cAwaitWrites k) :
    dataWrite dsize ok s = awaitedWrite dsize ok k s := by
  unfold dataWrite
  rw [hs]

/-- The one DSIZE code of a word (spec/20_memory.md R73). -/
theorem isWord_eq_false {dsize : BitVec 3} (h : dsize ≠ 0b100) : isWord dsize = false := beq_false_of_ne h

/-- An awaited non-word access with FE = 1 is faulted (spec/20_memory.md R125). -/
theorem awaitedFetch_faulted (w : Word) {dsize : BitVec 3} (ok : Bool) (k : ℕ) {s : State} (hfe : s.asr.fe = true)
    (hsize : dsize ≠ 0b100) :
    awaitedFetch w dsize ok k s = respond sizeFault { abandon s with asr := { s.asr with uw := true } } :=
  if_pos (by simp [isWord_eq_false hsize, hfe])

theorem awaitedWrite_faulted {dsize : BitVec 3} (ok : Bool) (k : ℕ) {s : State} (hfe : s.asr.fe = true)
    (hsize : dsize ≠ 0b100) :
    awaitedWrite dsize ok k s = respond sizeFault { s with asr := { s.asr with uw := true, wf := true } } :=
  if_pos (by simp [isWord_eq_false hsize, hfe])

/-- An awaited word is latched and counted (spec/20_memory.md R108), but not with a bus exception (R115). -/
theorem awaitedFetch_word (w : Word) (ok : Bool) (k : ℕ) (s : State) :
    awaitedFetch w 0b100 ok k s = if ok then respond .idle (coprocOperand w k s) else respond .idle s := rfl

/-- A data write drives the next result word (spec/20_memory.md R112). -/
theorem awaitedWrite_word (ok : Bool) (k : ℕ) (s : State) :
    awaitedWrite 0b100 ok k s = respond ⟨false, false, false, some (resultWord k s)⟩
      (if ok then wordWritten k s else { s with asr := { s.asr with wf := s.asr.wf || s.asr.fe } }) := rfl

/-- The words to be written are those of the pending image, the most significant one first. -/
theorem resultWord_words {k : ℕ} {s : State} {image : Triple} (h : s.pending = .words image) :
    resultWord k s = tripleWord image ((currentInstr s).operands.op3.words - k) := by
  unfold resultWord
  rw [h]

/-- The last word written ends the transaction, another leaves one word less to come (spec/20_memory.md R113). -/
theorem wordWritten_last (s : State) : wordWritten 1 s = { abandon s with asr := clearWf s } := rfl

theorem wordWritten_more {k : ℕ} (s : State) (hk : 1 < k) : wordWritten k s = { s with phase := .cAwaitWrites (k - 1) } :=
  if_neg (not_le.mpr hk)

/-! ### Status fetches -/

theorem statusFetch_done {s : State} (hs : s.phase = .cDone) : statusFetch s = firstStatus s := by
  unfold statusFetch
  rw [hs]

theorem statusFetch_notDone {s : State} (hs : s.phase ≠ .cDone) : statusFetch s = laterStatus s := by
  unfold statusFetch
  split
  case h_1 hk => exact absurd hk hs
  all_goals rfl

/-- A repeated status fetch gets the answer of the one before and changes nothing (spec/20_memory.md R110). -/
theorem laterStatus_repeated {s : State} {word : Word} {fault : Bool} (h : s.statusRetry = some (word, fault)) :
    laterStatus s = { s with bus := statusAnswer word fault } := by
  unfold laterStatus
  rw [h]

theorem laterStatus_unexpected {s : State} (h : s.statusRetry = none) : laterStatus s = respond .idle s := by
  unfold laterStatus
  rw [h]

theorem firstStatus_done (s : State) : (firstStatus s).done = false := by
  change (afterStatus s).done = false
  rcases afterStatus_cases s with ⟨-, e⟩ | ⟨-, -, e⟩ | ⟨r, v, -, -, e⟩ | ⟨image, -, -, e⟩ <;> rw [e] <;> rfl

/-- With an exception pending the status fetch drops the transaction and leaves the ASR. -/
theorem firstStatus_excepted {s : State} (hx : s.pendingException = true) :
    (firstStatus s).phase = .quiescent ∧ (firstStatus s).regs = s.regs ∧ (firstStatus s).asr = s.asr
    ∧ (firstStatus s).pending = .nothing := by
  have e : afterStatus s = abandon s := by simp only [afterStatus, hx, if_true]
  simp [firstStatus, e]

/-- With nothing to deliver it ends the transaction. -/
theorem firstStatus_nothing {s : State} (hx : s.pendingException = false) (hp : s.pending = .nothing) :
    (firstStatus s).phase = .quiescent ∧ (firstStatus s).regs = s.regs ∧ (firstStatus s).asr = clearWf s := by
  have e : afterStatus s = { abandon s with asr := clearWf s } := by simp [afterStatus, hx, hp]
  simp [firstStatus, e]

/-- It writes a pending register result (spec/20_memory.md R111). -/
theorem firstStatus_register {s : State} {r : Reg} {v : Extended} (hx : s.pendingException = false)
    (hp : s.pending = .register r v) :
    (firstStatus s).phase = .quiescent ∧ (firstStatus s).regs = s.regs.set r v ∧ (firstStatus s).asr = clearWf s := by
  have e : afterStatus s = { abandon s with asr := clearWf s, regs := s.regs.set r v } := by simp [afterStatus, hx, hp]
  simp [firstStatus, e]

/-- It opens the data writes of pending result words (spec/20_memory.md R112). -/
theorem firstStatus_words {s : State} {image : Triple} (hx : s.pendingException = false) (hp : s.pending = .words image) :
    (firstStatus s).phase = .cAwaitWrites (currentInstr s).operands.op3.words
    ∧ (firstStatus s).pending = s.pending ∧ (firstStatus s).regs = s.regs ∧ (firstStatus s).asr = s.asr := by
  have e : afterStatus s = { s with done := false, phase := .cAwaitWrites (currentInstr s).operands.op3.words } := by
    simp [afterStatus, hx, hp]
  simp [firstStatus, e]

/-- Without an exception, and unless words are still to be written, it clears WF of an operation that is not exempt
(spec/60_exceptions.md R434). -/
theorem firstStatus_clearsWf {s : State} (hx : s.pendingException = false) (hw : ∀ image, s.pending ≠ .words image) :
    (firstStatus s).asr = clearWf s := by
  cases hp : s.pending with
  | nothing => exact (firstStatus_nothing hx hp).2.2
  | register r v => exact (firstStatus_register hx hp).2.2
  | words image => exact absurd hp (hw image)

end Sys2Proof.Machine
end

section
/-! When the operation in progress runs (spec/20_memory.md R97, R109), and what the delivery of its result leaves
(R98, R111, R112). -/

namespace Sys2Proof.Machine

theorem runCurrent_exec {s : State} (hready : operandsReady s = true) (hrestart : isRestart s = false) :
    runCurrent s = exec (currentInstr s) s := by
  unfold runCurrent
  rw [if_pos hready, if_neg (by simp [hrestart])]

/-- With its operand words there the operation answers a next state, a restart or not. -/
theorem runCurrent_next {s : State} (hready : operandsReady s = true) : ∃ t, runCurrent s = .next t := by
  cases hrestart : isRestart s with
  | true => exact ⟨completeRestart s, by simp [runCurrent, hready, hrestart]⟩
  | false =>
    rw [runCurrent_exec hready hrestart]
    exact exec_next _ s

theorem elapse_executing {s : State} (hexec : isExecuting s = true) : elapse s = runCurrent s := if_pos hexec

/-- In a coherent state an operation that executes has its operand words. -/
theorem operandsReady_of_executing {s : State} (h : phaseCoherent s) (hexec : isExecuting s = true) :
    operandsReady s = true := by
  rcases (isExecuting_iff s).mp hexec with hp | hp <;> simp only [phaseCoherent, hp] at h
  · obtain ⟨-, hready, -⟩ := h
    exact hready
  · obtain ⟨-, hready, -⟩ := h
    exact hready

/-- In a coherent state time passes without a fault. -/
theorem elapse_next {s : State} (h : phaseCoherent s) : ∃ t, elapse s = .next t := by
  cases hexec : isExecuting s with
  | true =>
    rw [elapse_executing hexec]
    exact runCurrent_next (operandsReady_of_executing h hexec)
  | false => exact ⟨{ s with bus := .idle }, by simp [elapse, hexec]⟩

/-- In a coherent state no event is met with a fault: only the passing of time could be. -/
theorem react_no_fault (e : BusEvent) (f : Fault) {s : State} (h : phaseCoherent s) : react e s ≠ .fault f := by
  cases e
  case elapse =>
    obtain ⟨t, ht⟩ := elapse_next h
    simp [react, ht]
  all_goals simp [react]

/-- The command word placed by `withFetchWord` is the given one, its operand words have arrived, and it is no restart. -/
theorem withFetchWord_runs (s : State) (w : Word) :
    (s.withFetchWord 32 w.toNat).cr = w ∧ operandsReady (s.withFetchWord 32 w.toNat) = true := by
  have hw : BitVec.ofNat 32 (w.toNat % 2 ^ 32) = w := by
    rw [Nat.mod_eq_of_lt w.isLt, BitVec.ofNat_toNat, BitVec.setWidth_eq]
  simp only [State.withFetchWord, hw]
  exact ⟨rfl, by simp [operandsReady, currentInstr, placeCommand, zeroWords]⟩

/-- An operation that signals nothing delivers its result. -/
theorem exec_delivers {i : Instr} {s : State} {r : OpResult} (hop : operationOf i s = some r) (ht : r.trap = none) :
    exec i s = .next (deliverResult i.operands (keepsDr i) r s) := by
  rw [exec_operation hop, completeOperation, ht]

/-- Every operation but FTOD keeps a result for memory in DR (spec/60_exceptions.md R435). -/
theorem keepsDr_eq_true {i : Instr} (h : ∀ o, i ≠ .ftod o) : keepsDr i = true := by
  cases i
  case ftod o => exact absurd rfl (h o)
  all_goals rfl

/-- A memory result stands in DR if it is kept there, and in peripheral mode always. -/
theorem drAfter_mem {o : Operands} {n : MemSize} {kept : Bool} (image : Triple) {s : State} (hd : o.op3 = .mem n)
    (hk : kept = true ∨ s.modeLock = .peripheral) : drAfter o kept image s = image := by
  unfold drAfter
  rw [hd]
  exact if_pos (by simpa using hk)

/-- A register destination is written at once in peripheral mode only (spec/20_memory.md R98, R111). -/
theorem regsAfter_peripheral (o : Operands) (v : Extended) {s : State} (hm : s.modeLock = .peripheral) :
    regsAfter o v s = s.regs.write o.op3 v := if_pos hm

theorem regsAfter_coprocessor (o : Operands) (v : Extended) {s : State} (hm : s.modeLock = .coprocessor) :
    regsAfter o v s = s.regs := if_neg (by simp [hm])

end Sys2Proof.Machine
end

section
/-! The obligations of the bus protocols: O7, O14, O16, O17, O19, O20, O21, O23, O25, O31, O4 and O15. -/

open Sys2Proof Sys2Proof.Machine

/-- Settles O7: whatever event comes, `react_no_fault` needs no more than a coherent phase. -/
theorem noFaultUnderInvariant : Obligations.NoFaultUnderInvariant := by
  intro s hs f
  cases hi : s.inbox with
  | nil =>
    obtain ⟨t, ht⟩ := elapse_next hs.1
    simp [step, nextEvent, hi, ht]
  | cons e rest =>
    rw [step_event hi]
    exact react_no_fault e f (s := { s with inbox := rest }) hs.1

/-- Settles O14: in each group of phases of `periphRead_cases` the answer is known. -/
theorem peripheralRead : Obligations.PeripheralRead := by
  intro s obj rest hi
  rw [step_event hi]
  rcases periphRead_cases obj { s with inbox := rest } with ⟨hs, e⟩ | ⟨hs, e⟩ | ⟨hs, e⟩ <;>
    refine ⟨_, congrArg Host.Outcome.next e, rfl, ?_⟩
  · have hq : s.phase = .quiescent := hs
    obtain ⟨h4, h5, h6⟩ := objectWord_dr obj { s with inbox := rest }
    exact ⟨fun _ => ⟨rfl, fun h => congrArg some (objectWord_asr _ h), fun h => congrArg some (h4 h),
      fun h => congrArg some (h5 h), fun h => congrArg some (h6 h)⟩, by simp [hq], by simp [hq]⟩
  · refine ⟨fun hq => ?_, fun ⟨k, hk⟩ h => ?_, fun hp h => ?_⟩
    · rcases hs with ⟨k, hk⟩ | hp
      · cases hq.symm.trans hk
      · cases hq.symm.trans hp
    · exact ⟨rfl, congrArg some (busyWord_awaiting hk h)⟩
    · exact ⟨rfl, _, rfl, busyWord_executing (s := { s with inbox := rest }) hp h⟩
  · have hc : inCoprocessor s := hs
    rcases hc with ⟨k, hk⟩ | hk | hk | ⟨k, hk⟩ <;> simp [hk]

/-- Settles O16: the write is `startCommand`, and of the ASR an operation cut short keeps what software owns. -/
theorem peripheralStart : Obligations.PeripheralStart := by
  intro s w rest hs hi
  rw [step_event hi]
  exact ⟨_, congrArg Host.Outcome.next (periphWrite_command w (s := { s with inbox := rest }) hs), rfl, rfl, rfl,
    ⟨rfl, rfl⟩, ⟨rfl, rfl, rfl⟩, rfl, rfl, (asrCutShort_frame { s with inbox := rest }).1, rfl⟩

/-- Settles O17: the word goes to the latches, which is all that `latchWord` touches. -/
theorem peripheralOperandWord : Obligations.PeripheralOperandWord := by
  intro s k obj w rest hs h7 hi
  rw [step_event hi]
  obtain ⟨hmode, hcr, hasr, hregs, -, -⟩ := latchWord_unchanged w { s with inbox := rest }
  exact ⟨_, congrArg Host.Outcome.next (periphWrite_operand w (s := { s with inbox := rest }) hs h7), hasr, hregs, hcr,
    hmode, latchWord_latches w { s with inbox := rest }, periphOperand_phase w k { s with inbox := rest }⟩

/-- Settles O19: one clause for each case of `broadcast_cases`. -/
theorem broadcast : Obligations.Broadcast := by
  intro s w ok rest hi
  rw [step_event hi]
  obtain ⟨hcontrols, hra⟩ := asrCutShort_frame { s with inbox := rest }
  rcases broadcast_cases w ok { s with inbox := rest } with ⟨hid, e⟩ | ⟨hid, hok, e⟩ | ⟨hid, hok, e⟩ <;>
    refine ⟨_, congrArg Host.Outcome.next e, ⟨rfl, rfl⟩, ⟨rfl, rfl, rfl⟩, rfl, rfl, hcontrols, rfl, ?_⟩
  · exact ⟨fun h0 => absurd h0 hid, fun _ => ⟨rfl, hra⟩, fun _ => ⟨rfl, rfl⟩, fun h0 => absurd h0 hid⟩
  · exact ⟨fun _ _ => rfl, fun hn => absurd hid hn, fun _ => ⟨rfl, rfl⟩, fun _ h => by simp [hok] at h⟩
  · exact ⟨fun _ h => by simp [hok] at h, fun hn => absurd hid hn, fun hn => by simp [hid, hok] at hn,
      fun _ _ => ⟨rfl, rfl, rfl, rfl, rfl⟩⟩

/-- Settles O20: `awaitedFetch_word` in its two cases. -/
theorem coprocessorOperandWord : Obligations.CoprocessorOperandWord := by
  intro s k w ok rest hs hi
  rw [step_event hi]
  have e : dataFetch w 0b100 ok { s with inbox := rest }
      = if ok then respond .idle (coprocOperand w k { s with inbox := rest }) else onlyAnswered s rest .idle :=
    (dataFetch_awaited w 0b100 ok (s := { s with inbox := rest }) hs).trans (awaitedFetch_word w ok k _)
  refine ⟨fun hok => ?_, fun hok => ?_⟩ <;> subst hok
  · exact congrArg Host.Outcome.next e
  · obtain ⟨-, hcr, hasr, hregs, hdr, -⟩ := latchWord_unchanged w { s with inbox := rest }
    exact ⟨_, congrArg Host.Outcome.next e, hasr, hregs, hdr, hcr, latchWord_latches w { s with inbox := rest },
      coprocOperand_phase w k { s with inbox := rest }⟩

/-- Settles O21: the two faulted accesses. -/
theorem nonWordAccessFaulted : Obligations.NonWordAccessFaulted := by
  intro s k dsize ok rest hfe hsize
  refine ⟨fun w hs hi => ?_, fun hs hi => ?_⟩ <;> rw [step_event hi]
  · exact ⟨_, congrArg Host.Outcome.next ((dataFetch_awaited w dsize ok (s := { s with inbox := rest }) hs).trans
      (awaitedFetch_faulted w ok k hfe hsize)), rfl, rfl, rfl, rfl, rfl⟩
  · exact ⟨_, congrArg Host.Outcome.next ((dataWrite_awaited dsize ok (s := { s with inbox := rest }) hs).trans
      (awaitedWrite_faulted ok k hfe hsize)), rfl, rfl, hs, rfl, rfl, rfl⟩

/-- Settles O23: the accesses no phase expects, and `firstStatus` for each result that can be pending. -/
theorem statusFetch : Obligations.StatusFetch := by
  refine ⟨fun s rest hs hi => ?_, fun s w dsize ok rest hs hi => ?_, fun s dsize ok rest hs hi => ?_,
    fun s rest hs hi => ?_⟩ <;> rw [step_event hi]
  · have e := statusFetch_notDone (s := { s with inbox := rest }) hs
    exact ⟨fun word fault h => congrArg Host.Outcome.next (e.trans (laterStatus_repeated h)),
      fun h => congrArg Host.Outcome.next (e.trans (laterStatus_unexpected h))⟩
  · exact congrArg Host.Outcome.next (dataFetch_unexpected w dsize ok (s := { s with inbox := rest }) hs)
  · exact congrArg Host.Outcome.next (dataWrite_unexpected dsize ok (s := { s with inbox := rest }) hs)
  · refine ⟨_, congrArg Host.Outcome.next (statusFetch_done (s := { s with inbox := rest }) hs), rfl,
      firstStatus_done _, firstStatus_dr _, rfl, fun hx => firstStatus_excepted hx, fun hx hp => ?_,
      fun r v hx hp => ?_, fun image hx hp => firstStatus_words hx hp, fun hx hw => firstStatus_clearsWf hx hw⟩
    · obtain ⟨hphase, hregs, -⟩ := firstStatus_nothing (s := { s with inbox := rest }) hx hp
      exact ⟨hphase, hregs⟩
    · obtain ⟨hphase, hregs, -⟩ := firstStatus_register (s := { s with inbox := rest }) hx hp
      exact ⟨hphase, hregs⟩

/-- Settles O25: the word driven is `resultWord`; the write failed, or was the last one, or one before it. -/
theorem dataWrite : Obligations.DataWrite := by
  intro s k ok rest image hs hp hi _
  rw [step_event hi]
  have e := (dataWrite_awaited 0b100 ok (s := { s with inbox := rest }) hs).trans (awaitedWrite_word ok k _)
  rw [resultWord_words (s := { s with inbox := rest }) hp] at e
  obtain ⟨hdr, hregs⟩ := wordWritten_unchanged k { s with inbox := rest }
  refine ⟨_, congrArg Host.Outcome.next e, rfl, ?_⟩
  cases ok
  · exact ⟨rfl, rfl, fun _ => ⟨hs, rfl, rfl⟩, by simp, by simp⟩
  · refine ⟨hregs, hdr, by simp, fun _ hk => ?_, fun _ hk => ?_⟩
    · rw [wordWritten_more _ hk]
      exact ⟨rfl, rfl, rfl⟩
    · subst hk
      rw [wordWritten_last]
      exact ⟨rfl, rfl, rfl⟩

/-- Settles O31: the delivery of `exec_delivers`, in either protocol and for either kind of destination. -/
theorem resultDelivered : Obligations.ResultDelivered := by
  intro i s r hop ht
  refine ⟨_, exec_delivers hop ht, rfl, rfl, rfl, rfl, rfl, fun hm => ?_, fun hm => ?_⟩
  · have hregs := regsAfter_peripheral i.operands r.reg hm
    refine ⟨by simp [hm], by simp [hm], by simp [hm], fun q p hd => ?_, fun n hd => ⟨?_, ?_⟩⟩
    · rw [deliverResult_regs, hregs, hd, regs_write_reg]
    · rw [deliverResult_regs, hregs, hd, regs_write_mem]
    · exact drAfter_mem r.image hd (.inr hm)
  · refine ⟨by simp [hm], by simp [hm], regsAfter_coprocessor _ _ hm, by simp [hm], fun q p hd => ?_,
      fun n hd => ⟨?_, fun hf => ?_⟩⟩
    · simp [hm, hd, pendingFor]
    · simp [hm, hd, pendingFor]
    · exact drAfter_mem r.image hd (.inl (keepsDr_eq_true hf))

/-- Settles O4: time passes in the step, the operation executes, and it is neither short of words nor a restart. -/
theorem stepRunsDecoded : Obligations.StepRunsDecoded := by
  refine ⟨fun s hexec hready hrestart => ⟨fun hi => ?_, fun rest hi => ?_⟩, fun s w => ?_⟩
  · have hstep : step s = elapse s := by simp only [step, nextEvent, hi]
    rw [hstep, elapse_executing hexec]
    exact runCurrent_exec hready hrestart
  · rw [step_event hi]
    exact (elapse_executing (s := { s with inbox := rest }) hexec).trans (runCurrent_exec hready hrestart)
  · obtain ⟨hcr, hready⟩ := withFetchWord_runs s w
    have hrun : step (s.withFetchWord 32 w.toNat) = runCurrent (s.withFetchWord 32 w.toNat) := rfl
    rw [hrun, runCurrent_exec hready rfl, currentInstr, hcr]

/-- Settles O15: such a write is only answered. -/
theorem peripheralWriteIgnored : Obligations.PeripheralWriteIgnored := by
  intro s obj w rest hi
  rw [step_event hi]
  refine ⟨fun hs => ?_, fun hs h7 => ?_⟩
  · exact ⟨_, congrArg Host.Outcome.next (periphWrite_inCoprocessor obj w (s := { s with inbox := rest }) hs), rfl⟩
  · exact congrArg Host.Outcome.next (periphWrite_executing w (s := { s with inbox := rest }) hs h7)
end

section
/-! Encoding and decoding a command word: the fields of a packed word, and that the coding of each field is inverted by
its decoding (spec/30_encoding.md R140 to R150). -/

namespace Sys2Proof

/-! ### The fields of a command word -/

/-- Bits 20 to 17 of a packed command word are the bank bits and RCS (spec/30_encoding.md R140). -/
theorem packCommand_flags (rb1 rb2 rb3 rcs : Bool) (rc : BitVec 2) (opcode : BitVec 5) (s1 s2 : BitVec 3)
    (s3 : BitVec 4) :
    (packCommand rb1 rb2 rb3 rcs rc opcode s1 s2 s3).getLsbD 20 = rb1
    ∧ (packCommand rb1 rb2 rb3 rcs rc opcode s1 s2 s3).getLsbD 19 = rb2
    ∧ (packCommand rb1 rb2 rb3 rcs rc opcode s1 s2 s3).getLsbD 18 = rb3
    ∧ (packCommand rb1 rb2 rb3 rcs rc opcode s1 s2 s3).getLsbD 17 = rcs := by
  unfold packCommand
  refine ⟨?_, ?_, ?_, ?_⟩ <;> simp only [BitVec.getLsbD_append] <;> simp

/-- RC and the three specifiers stand in bits 16-15, 9-7, 6-4 and 3-0 of a packed command word (spec/30_encoding.md
R140); `packCommand_opcode` is the field between. -/
theorem packCommand_codes (rb1 rb2 rb3 rcs : Bool) (rc : BitVec 2) (opcode : BitVec 5) (s1 s2 : BitVec 3)
    (s3 : BitVec 4) :
    (packCommand rb1 rb2 rb3 rcs rc opcode s1 s2 s3).extractLsb' 15 2 = rc
    ∧ (packCommand rb1 rb2 rb3 rcs rc opcode s1 s2 s3).extractLsb' 7 3 = s1
    ∧ (packCommand rb1 rb2 rb3 rcs rc opcode s1 s2 s3).extractLsb' 4 3 = s2
    ∧ (packCommand rb1 rb2 rb3 rcs rc opcode s1 s2 s3).extractLsb' 0 4 = s3 := by
  unfold packCommand
  refine ⟨?_, ?_, ?_, ?_⟩
  · iterate 4 rw [BitVec.extractLsb'_append_eq_of_le (by decide)]
    exact BitVec.extractLsb'_append_eq_right
  · iterate 2 rw [BitVec.extractLsb'_append_eq_of_le (by decide)]
    exact BitVec.extractLsb'_append_eq_right
  · rw [BitVec.extractLsb'_append_eq_of_le (by decide)]
    exact BitVec.extractLsb'_append_eq_right
  · exact BitVec.extractLsb'_append_eq_right

/-- The operands decoded from a packed command word depend on its fields alone. -/
theorem decodeOperands_packCommand (rb1 rb2 rb3 rcs : Bool) (rc : BitVec 2) (opcode : BitVec 5) (s1 s2 : BitVec 3)
    (s3 : BitVec 4) :
    decodeOperands (packCommand rb1 rb2 rb3 rcs rc opcode s1 s2 s3)
      = ⟨decodeSrc rb1 s1, decodeSrc rb2 s2, decodeDst rb3 s3, if rcs then some (RoundMode.ofCode rc) else none⟩ := by
  obtain ⟨h20, h19, h18, h17⟩ := packCommand_flags rb1 rb2 rb3 rcs rc opcode s1 s2 s3
  obtain ⟨hrc, hs1, hs2, hs3⟩ := packCommand_codes rb1 rb2 rb3 rcs rc opcode s1 s2 s3
  rw [decodeOperands, h20, h19, h18, h17, hrc, hs1, hs2, hs3]

/-- A one-bit field is the bit. -/
theorem ofBool_getLsbD (w : Word) (k : ℕ) : BitVec.ofBool (w.getLsbD k) = w.extractLsb' k 1 := by
  rw [BitVec.getLsbD_eq_extractLsb']
  generalize w.extractLsb' k 1 = b
  revert b
  decide

/-- A command word with ID and bits 23-21 zero is packed from its fields: they are adjacent and cover the word
(spec/30_encoding.md R140). -/
theorem packCommand_fields {w : Word} (h : w.extractLsb' 21 11 = 0) :
    packCommand (w.getLsbD 20) (w.getLsbD 19) (w.getLsbD 18) (w.getLsbD 17) (w.extractLsb' 15 2)
      (w.extractLsb' 10 5) (w.extractLsb' 7 3) (w.extractLsb' 4 3) (w.extractLsb' 0 4) = w := by
  have hhead : (0#8 ++ 0#3 : BitVec 11) = w.extractLsb' 21 11 := h.symm
  simp only [packCommand, hhead, ofBool_getLsbD]
  iterate 9 rw [BitVec.extractLsb'_append_extractLsb'_eq_extractLsb' (by rfl)]
  exact BitVec.extractLsb'_eq_self

/-! ### The coding of each field -/

/-- The source decoded from the bank bit and specifier of a source is that source (spec/30_encoding.md R145). -/
theorem decodeSrc_encodeSrc (x : Src) : decodeSrc (encodeSrc x).1 (encodeSrc x).2 = x := by
  cases x with
  | reg r => cases r <;> rfl
  | mem n => cases n <;> rfl
  | none => rfl

/-- The destination decoded from the bank bit and specifier of a destination is that destination
(spec/30_encoding.md R146). -/
theorem decodeDst_encodeDst (x : Dst) : decodeDst (encodeDst x).1 (encodeDst x).2 = x := by
  cases x with
  | reg r p => cases r <;> cases p <;> rfl
  | mem n => cases n <;> rfl
  | none => rfl

/-- RCS and RC of a rounding override name it (spec/30_encoding.md R144). -/
theorem ofCode_getD_code (m : Option RoundMode) :
    (if m.isSome then some (RoundMode.ofCode ((m.map RoundMode.code).getD 0)) else none) = m := by
  cases m with
  | none => rfl
  | some m => cases m <;> rfl

/-- A source specifier of a register takes any bank bit, the others only 0: then encoding gives both back
(spec/30_encoding.md R142, R145). -/
theorem encodeSrc_decodeSrc (bank : Bool) (s : BitVec 3) (h : s.getLsbD 2 = true → bank = false) :
    encodeSrc (decodeSrc bank s) = (bank, s) := by
  revert bank s
  decide

/-- A destination specifier of a register takes any bank bit, the others only 0: then encoding gives both back
(spec/30_encoding.md R142, R146). -/
theorem encodeDst_decodeDst (bank : Bool) (s : BitVec 4)
    (h : s.getLsbD 3 = true ∧ s.getLsbD 2 = true → bank = false) : encodeDst (decodeDst bank s) = (bank, s) := by
  revert bank s
  decide

/-- The override that RCS and RC name has that RCS, and that RC where RCS is 1 or RC is 0 (spec/30_encoding.md R144). -/
theorem code_override {rcs : Bool} {rc : BitVec 2} (h : rcs = false → rc = 0) :
    (if rcs then some (RoundMode.ofCode rc) else none).isSome = rcs
    ∧ ((if rcs then some (RoundMode.ofCode rc) else none).map RoundMode.code).getD 0 = rc := by
  cases rcs with
  | false => exact ⟨rfl, (h rfl).symm⟩
  | true => exact ⟨rfl, Machine.code_ofCode rc⟩

/-- An instruction is named by its opcode and operands (spec/30_encoding.md R150). -/
theorem instrOfOpcode_opcode (i : Instr) : instrOfOpcode i.opcode.toNat i.operands = i := by
  cases i <;> rfl

/-- The instruction of an opcode has the given operands. -/
@[simp] theorem instrOfOpcode_operands (n : ℕ) (o : Operands) : (instrOfOpcode n o).operands = o := by
  unfold instrOfOpcode
  split <;> rfl

/-- The instruction of an opcode has that opcode (spec/30_encoding.md R150). -/
@[simp] theorem opcode_instrOfOpcode (c : BitVec 5) (o : Operands) : (instrOfOpcode c.toNat o).opcode = c := by
  apply BitVec.eq_of_toNat_eq
  have hc : c.toNat < 32 := c.isLt
  generalize c.toNat = n at hc
  interval_cases n <;> rfl

/-! ### Whole command words -/

/-- The operands decoded from an encoded instruction are its operands. -/
theorem decodeOperands_encode (i : Instr) : decodeOperands (encode i) = i.operands := by
  unfold encode
  rw [decodeOperands_packCommand, decodeSrc_encodeSrc, decodeSrc_encodeSrc, decodeDst_encodeDst, ofCode_getD_code]

end Sys2Proof
end

section
/-! The obligations of the encoding: O1, O2 and O3. -/

open Sys2Proof Sys2Proof.Machine

/-- Settles O1: the opcode field and the operand fields are decoded to what they encode. -/
theorem decodeOfEncode : Obligations.DecodeOfEncode := by
  intro i
  rw [decode, encode_opcode, decodeOperands_encode, instrOfOpcode_opcode]

/-- Settles O2: each field of a canonical word is what its decoding encodes to, and the fields make up the word. -/
theorem encodeOfDecode : Obligations.EncodeOfDecode := by
  intro w hhead hop1 hop2 hop3 hrc
  have h1 := encodeSrc_decodeSrc (w.getLsbD 20) (w.extractLsb' 7 3) (by simpa using hop1)
  have h2 := encodeSrc_decodeSrc (w.getLsbD 19) (w.extractLsb' 4 3) (by simpa using hop2)
  have h3 := encodeDst_decodeDst (w.getLsbD 18) (w.extractLsb' 0 4) (by simpa using hop3)
  obtain ⟨hrcs, hcode⟩ := code_override hrc
  simp only [encode, decode, instrOfOpcode_operands, opcode_instrOfOpcode, decodeOperands, h1, h2, h3, hrcs, hcode]
  exact packCommand_fields hhead

/-- Settles O3: each of the six words is decoded. -/
theorem decodedWords : Obligations.DecodedWords := by
  unfold Obligations.DecodedWords
  decide
end

section
/-! Widening (spec/40_data_formats.md R183, R186, R197): the fields of a packed double-extended pattern, and the value or
class of what a narrower format is widened to. One `widen`, with the sizes of a format as parameters, serves both. -/

namespace Sys2Proof.Machine

/-! ### A packed pattern -/

/-- The fields of a pattern packed from an exponent and a significand that fit (spec/40_data_formats.md R187). -/
theorem packExt_fields (neg : Bool) {e sig : ℕ} (he : e < 2 ^ 15) (hsig : sig < 2 ^ 64) :
    extSign (packExt neg e sig) = neg ∧ extExponent (packExt neg e sig) = e
    ∧ extSignificand (packExt neg e sig) = sig ∧ (packExt neg e sig).getLsbD 62 = sig.testBit 62 := by
  unfold extSign extExponent extSignificand packExt
  refine ⟨?_, ?_, ?_, ?_⟩
  · rw [BitVec.getLsbD_append, if_neg (by decide), BitVec.getLsbD_append, if_neg (by decide)]
    simp
  · rw [BitVec.extractLsb'_append_eq_of_le (by decide), BitVec.extractLsb'_append_eq_right, BitVec.toNat_ofNat,
      Nat.mod_eq_of_lt he]
  · rw [BitVec.extractLsb'_append_eq_right, BitVec.toNat_ofNat, Nat.mod_eq_of_lt hsig]
  · rw [BitVec.getLsbD_append, if_pos (by decide), BitVec.getLsbD_ofNat, decide_eq_true (by decide), Bool.true_and]

/-- The value of a packed number with a nonzero exponent field (spec/40_data_formats.md R196). -/
theorem extReal_packExt (neg : Bool) {e sig : ℕ} (h0 : 0 < e) (he : e < 2 ^ 15) (hsig : sig < 2 ^ 64) :
    extReal (packExt neg e sig) = signFactor neg * (sig * (2 : ℝ) ^ ((e : ℤ) - 16446)) := by
  obtain ⟨hs, hx, hm, -⟩ := packExt_fields neg he hsig
  unfold extSign at hs
  unfold extExponent at hx
  unfold extSignificand at hm
  have hmax : max (e : ℤ) 1 - 16383 = (e : ℤ) - 16446 + 63 := by omega
  rw [extReal, hs, hx, hm, hmax, zpow_add₀ two_ne_zero]
  field_simp

/-- The value of a packed zero. -/
theorem extReal_packExt_zero (neg : Bool) : extReal (packExt neg 0 0) = 0 := by
  obtain ⟨-, -, hm, -⟩ := packExt_fields neg (e := 0) (sig := 0) (by decide) (by decide)
  unfold extSignificand at hm
  simp [extReal, hm]

/-- The class of a packed zero. -/
theorem isZero_packExt_zero (neg : Bool) : isZero (packExt neg 0 0) = true := by
  obtain ⟨-, hx, hm, -⟩ := packExt_fields neg (e := 0) (sig := 0) (by decide) (by decide)
  simp [isZero, classify, hx, hm]

/-- Below the maximum exponent field a significand that is not 0 makes a number (spec/40_data_formats.md R198). -/
theorem isNumber_packExt (neg : Bool) {e sig : ℕ} (he : e < 32767) (h0 : 0 < sig) (hsig : sig < 2 ^ 64) :
    isNumber (packExt neg e sig) := by
  obtain ⟨-, hx, hm, -⟩ := packExt_fields neg (e := e) (by omega) hsig
  simp [isNumber, classify, hx, hm, he.ne, h0.ne']

/-- At the maximum exponent field the significand tells an infinity from the NaNs (spec/40_data_formats.md R190). -/
theorem classify_packExt_max (neg : Bool) {sig : ℕ} (hsig : sig < 2 ^ 64) :
    classify (packExt neg 32767 sig)
      = if sig = 0 then .infinity else if sig.testBit 62 then .quietNan else .trappingNan := by
  obtain ⟨-, hx, hm, hq⟩ := packExt_fields neg (e := 32767) (by decide) hsig
  rw [classify, if_pos hx, hm, hq]

/-! ### The narrower formats -/

/-- A format with this bias, maximum exponent field and fraction width fits into double-extended: its fraction is
narrower than 63 bits, its smallest denormalized number is normalized there, its largest exponent is below the maximum. -/
structure Fits (bias emax fbits : ℕ) : Prop where
  fraction : 0 < fbits ∧ fbits ≤ 63
  low : bias + fbits ≤ 16383
  high : emax ≤ bias + 16384

/-- Single precision fits (spec/40_data_formats.md R182). -/
theorem fits_single : Fits 127 255 23 := ⟨by decide, by decide, by decide⟩

/-- Double precision fits (spec/40_data_formats.md R185). -/
theorem fits_double : Fits 1023 2047 52 := ⟨by decide, by decide, by decide⟩

/-- The value of the finite number with these fields, in the shape that `singleReal` and `doubleReal` share
(spec/40_data_formats.md R183, R186). -/
noncomputable def fieldsReal (bias fbits : ℕ) (neg : Bool) (e f : ℕ) : ℝ :=
  signFactor neg * (if e = 0 then (2 : ℝ) ^ (1 - (bias : ℤ)) * (f / (2 : ℝ) ^ (fbits : ℤ))
    else (2 : ℝ) ^ ((e : ℤ) - bias) * (1 + f / (2 : ℝ) ^ (fbits : ℤ)))

theorem singleReal_eq_fieldsReal (w : Word) :
    singleReal w = fieldsReal 127 23 (w.getLsbD 31) (w.extractLsb' 23 8).toNat (w.extractLsb' 0 23).toNat := rfl

theorem doubleReal_eq_fieldsReal (d : BitVec 64) :
    doubleReal d = fieldsReal 1023 52 (d.getLsbD 63) (d.extractLsb' 52 11).toNat (d.extractLsb' 0 52).toNat := rfl

/-- A fraction moved up to the 63 fraction bits of double-extended stays below J: with J it is a significand. -/
theorem shiftedFraction_bounds {f fbits : ℕ} (hb : fbits ≤ 63) (hf : f < 2 ^ fbits) :
    0 < 2 ^ 63 + f <<< (63 - fbits) ∧ 2 ^ 63 + f <<< (63 - fbits) < 2 ^ 64 := by
  have h := Nat.mul_lt_mul_of_pos_right hf (Nat.two_pow_pos (63 - fbits))
  rw [← pow_add, Nat.add_sub_cancel' hb, ← Nat.shiftLeft_eq] at h
  generalize f <<< (63 - fbits) = m at h ⊢
  omega

/-- A fraction moved up until its leading one stands at J. -/
theorem normalizedFraction_bounds {f : ℕ} (h0 : f ≠ 0) (hl : f.log2 ≤ 63) :
    0 < f <<< (63 - f.log2) ∧ f <<< (63 - f.log2) < 2 ^ 64 := by
  rw [Nat.shiftLeft_eq]
  refine ⟨by positivity, ?_⟩
  have h := Nat.mul_lt_mul_of_pos_right (Nat.lt_log2_self (n := f)) (Nat.two_pow_pos (63 - f.log2))
  rwa [← pow_add, show f.log2 + 1 + (63 - f.log2) = 64 by omega] at h

/-- A widened denormalized number is normalized, with the same value (the spec's decision D24, log 19). -/
theorem widen_denormalized {bias emax fbits : ℕ} (hfit : Fits bias emax fbits) (neg : Bool) {f : ℕ} (hmax : emax ≠ 0)
    (hf : f < 2 ^ fbits) (h0 : f ≠ 0) :
    extReal (widen bias emax fbits neg 0 f) = fieldsReal bias fbits neg 0 f
    ∧ isNumber (widen bias emax fbits neg 0 f) := by
  obtain ⟨⟨-, hb⟩, hlow, -⟩ := hfit
  have hl : f.log2 < fbits := (Nat.log2_lt h0).mpr hf
  obtain ⟨hpos, hlt⟩ := normalizedFraction_bounds h0 (by omega)
  rw [widen, if_neg hmax.symm, if_pos rfl, if_neg h0]
  refine ⟨?_, isNumber_packExt neg (by omega) hpos hlt⟩
  have hexp : ((63 - f.log2 : ℕ) : ℤ) + (((16384 + f.log2 - bias - fbits : ℕ) : ℤ) - 16446)
      = 1 - bias - fbits := by omega
  rw [extReal_packExt neg (by omega) (by omega) hlt, fieldsReal, if_pos rfl, Nat.shiftLeft_eq]
  congr 1
  push_cast
  rw [← zpow_natCast, mul_assoc, ← zpow_add₀ two_ne_zero, hexp, zpow_sub₀ two_ne_zero]
  ring

/-- A widened normalized number keeps its value and is a number. -/
theorem widen_normalized {bias emax fbits : ℕ} (hfit : Fits bias emax fbits) (neg : Bool) {e f : ℕ} (he : e < emax)
    (hf : f < 2 ^ fbits) (h0 : e ≠ 0) :
    extReal (widen bias emax fbits neg e f) = fieldsReal bias fbits neg e f
    ∧ isNumber (widen bias emax fbits neg e f) := by
  obtain ⟨⟨-, hb⟩, hlow, hhigh⟩ := hfit
  obtain ⟨hpos, hlt⟩ := shiftedFraction_bounds hb hf
  rw [widen, if_neg he.ne, if_neg h0]
  refine ⟨?_, isNumber_packExt neg (by omega) hpos hlt⟩
  have hexp : ((16383 + e - bias : ℕ) : ℤ) - 16446 = ((e : ℤ) - bias) - 63 := by omega
  have hfrac : (2 : ℝ) ^ 63 = 2 ^ fbits * 2 ^ (63 - fbits) := by rw [← pow_add, Nat.add_sub_cancel' hb]
  rw [extReal_packExt neg (by omega) (by omega) hlt, fieldsReal, if_neg h0, hexp, zpow_sub₀ two_ne_zero,
    Nat.shiftLeft_eq, zpow_natCast, zpow_ofNat]
  simp only [Nat.cast_add, Nat.cast_mul, Nat.cast_pow, Nat.cast_ofNat, hfrac]
  field_simp

/-- Widening a finite operand keeps its value and gives a zero or a number (spec/40_data_formats.md R197). -/
theorem widen_finite {bias emax fbits : ℕ} (hfit : Fits bias emax fbits) (neg : Bool) {e f : ℕ} (he : e < emax)
    (hf : f < 2 ^ fbits) :
    extReal (widen bias emax fbits neg e f) = fieldsReal bias fbits neg e f
    ∧ (isZero (widen bias emax fbits neg e f) = true ∨ isNumber (widen bias emax fbits neg e f)) := by
  by_cases h0 : e = 0
  · subst h0
    by_cases hf0 : f = 0
    · subst hf0
      rw [widen, if_neg he.ne, if_pos rfl, if_pos rfl]
      exact ⟨by simp [extReal_packExt_zero, fieldsReal], .inl (isZero_packExt_zero neg)⟩
    · exact (widen_denormalized hfit neg he.ne' hf hf0).imp_right .inr
  · exact (widen_normalized hfit neg he hf h0).imp_right .inr

/-- Widening an infinity or a NaN keeps its sign and its class, which the most significant fraction bit gives
(spec/40_data_formats.md R197). -/
theorem widen_special {bias emax fbits : ℕ} (hfit : Fits bias emax fbits) (neg : Bool) {f : ℕ} (hf : f < 2 ^ fbits) :
    extSign (widen bias emax fbits neg emax f) = neg
    ∧ classify (widen bias emax fbits neg emax f)
      = if f = 0 then .infinity else if f.testBit (fbits - 1) then .quietNan else .trappingNan := by
  obtain ⟨⟨hpos, hb⟩, -, -⟩ := hfit
  rw [widen, if_pos rfl]
  by_cases h0 : f = 0
  · rw [if_pos h0, if_pos h0, classify_packExt_max neg (by decide)]
    exact ⟨(packExt_fields neg (by decide) (by decide)).1, rfl⟩
  · obtain ⟨hsig, hlt⟩ := shiftedFraction_bounds hb hf
    have hbit : (2 ^ 63 + f <<< (63 - fbits)).testBit 62 = f.testBit (fbits - 1) := by
      rw [Nat.testBit_two_pow_add_gt (by decide), Nat.testBit_shiftLeft, decide_eq_true (by omega), Bool.true_and,
        show 62 - (63 - fbits) = fbits - 1 by omega]
    rw [if_neg h0, if_neg h0, classify_packExt_max neg hlt, if_neg hsig.ne', hbit]
    exact ⟨(packExt_fields neg (by decide) hlt).1, rfl⟩

/-- A bit pattern is 0 exactly when its number is. -/
theorem toNat_eq_zero_iff {n : ℕ} (v : BitVec n) : v.toNat = 0 ↔ v = 0 := BitVec.toNat_inj (y := 0)

/-- The bits of the number in a field that ends at bit 0 are those of the pattern. -/
theorem testBit_lowField {n : ℕ} (v : BitVec n) {k len : ℕ} (hk : k < len) :
    (v.extractLsb' 0 len).toNat.testBit k = v.getLsbD k := by
  rw [BitVec.testBit_toNat, BitVec.getLsbD_extractLsb', decide_eq_true hk, Bool.true_and, Nat.zero_add]

end Sys2Proof.Machine
end

section
/-! The obligation of the data formats: O48. -/

open Sys2Proof Sys2Proof.Machine

/-- Settles O48: single and double precision are two formats that fit, and `widen_finite` and `widen_special` hold of
each. -/
theorem wideningKeepsValue : Obligations.WideningKeepsValue := by
  refine ⟨fun w he => ?_, fun d he => ?_, fun w he => ?_, fun d he => ?_⟩
  · rw [singleReal_eq_fieldsReal]
    exact widen_finite fits_single _ (by omega) (BitVec.isLt _)
  · rw [doubleReal_eq_fieldsReal]
    exact widen_finite fits_double _ (by omega) (BitVec.isLt _)
  · obtain ⟨hsign, hclass⟩ := widen_special fits_single (w.getLsbD 31) (w.extractLsb' 0 23).isLt
    have hbit := testBit_lowField w (k := 22) (len := 23) (by decide)
    rw [widenSingle, he]
    exact ⟨hsign, by simpa only [toNat_eq_zero_iff, hbit] using hclass⟩
  · obtain ⟨hsign, hclass⟩ := widen_special fits_double (d.getLsbD 63) (d.extractLsb' 0 52).isLt
    have hbit := testBit_lowField d (k := 51) (len := 52) (by decide)
    rw [widenDouble, he]
    exact ⟨hsign, by simpa only [toNat_eq_zero_iff, hbit] using hclass⟩
end

section
/-! What software owns in the ASR: the masks, RC, NTNC and FE, and the clearing of a sticky bit
(spec/41_operation_model.md R264, spec/10_state.md R30, R31, R38, R39). -/

namespace Sys2Proof.Machine

/-- The bits only software writes stay, and no sticky bit is cleared. -/
def softwareKept (a b : Asr) : Prop := sameControls a b ∧ stickyKept a b

theorem stickyKept_refl (a : Asr) : stickyKept a a := ⟨id, id, id, id, id⟩

/-- An ASR that differs in neither is one with the same software bits, whatever its flags, RA, CSC, ECP, WF and UW. -/
theorem softwareKept_refl (a : Asr) : softwareKept a a := ⟨⟨rfl, rfl, rfl, rfl, rfl, rfl, rfl, rfl⟩, stickyKept_refl a⟩

theorem mixBit_of_imp {old new : Bool} (h : old = true → new = true) (w : Word) (k : ℕ) (hold : old = true) :
    mixBit w k new old = true := by
  unfold mixBit
  split
  · exact h hold
  · exact hold

/-- An operation cut short clears no sticky bit that it would have kept at its end. -/
theorem stickyKept_mixFlags {old new : Asr} (h : stickyKept old new) (w : Word) : stickyKept old (mixFlags w new old) := by
  obtain ⟨his, hos, hus, hqs, hps⟩ := h
  exact ⟨mixBit_of_imp his w 9, mixBit_of_imp hos w 8, mixBit_of_imp hus w 7, mixBit_of_imp hqs w 6,
    mixBit_of_imp hps w 18⟩

/-- No instruction but WRASR changes what software owns. -/
theorem exec_softwareKept {i : Instr} {s t : State} (h : exec i s = .next t) (hi : ∀ o, i ≠ .wrasr o) :
    softwareKept s.asr t.asr := by
  rcases exec_asr h with ⟨-, r, e⟩ | ⟨-, e⟩ | ⟨-, o, rfl, -⟩
  · rw [e]
    exact asrAfter_frame s.asr r
  · rw [e]
    exact softwareKept_refl s.asr
  · exact absurd rfl (hi o)

/-- The ASR an operation in progress would leave keeps the sticky bits, unless it is WRASR. -/
theorem completedAsr_sticky {s : State} (hi : ∀ o, currentInstr s ≠ .wrasr o) : stickyKept s.asr (completedAsr s) := by
  unfold completedAsr
  split
  · exact stickyKept_refl _
  · obtain ⟨t, ht⟩ := exec_next (currentInstr s) s
    rw [ht]
    exact (exec_softwareKept ht hi).2

/-- A new command, a broadcast or a reset keeps what software owns, unless it cuts an executing WRASR short. -/
theorem asrCutShort_software (s : State) :
    softwareKept s.asr (asrCutShort s)
    ∨ (sameControls s.asr (asrCutShort s) ∧ isExecuting s = true ∧ ∃ o, currentInstr s = .wrasr o) := by
  obtain ⟨hcontrols, -⟩ := asrCutShort_frame s
  rcases asrCutShort_cases s with ⟨-, e⟩ | ⟨hexec, e⟩
  · rw [e]
    exact .inl (softwareKept_refl _)
  · by_cases hw : ∃ o, currentInstr s = .wrasr o
    · exact .inr ⟨hcontrols, hexec, hw⟩
    · refine .inl ⟨hcontrols, ?_⟩
      rw [e]
      exact stickyKept_mixFlags (completedAsr_sticky (not_exists.mp hw)) _

/-- An interrupt acknowledge keeps what software owns, unless it aborts WRASR. -/
theorem abortTransaction_software (s : State) :
    softwareKept s.asr (abortTransaction s).asr
    ∨ (sameControls s.asr (abortTransaction s).asr ∧ ∃ o, currentInstr s = .wrasr o) := by
  have hcontrols : sameControls s.asr (abortTransaction s).asr := (softwareKept_refl s.asr).1
  by_cases hw : ∃ o, currentInstr s = .wrasr o
  · exact .inr ⟨hcontrols, hw⟩
  · exact .inl ⟨hcontrols, stickyKept_mixFlags (completedAsr_sticky (not_exists.mp hw)) _⟩

theorem latchWord_software (w : Word) (s : State) : softwareKept s.asr (latchWord w s).asr := by
  obtain ⟨-, -, e, -⟩ := latchWord_unchanged w s
  rw [e]
  exact softwareKept_refl _

theorem firstStatus_software (s : State) : softwareKept s.asr (firstStatus s).asr := by
  change softwareKept s.asr (afterStatus s).asr
  rcases afterStatus_cases s with ⟨-, e⟩ | ⟨-, -, e⟩ | ⟨r, v, -, -, e⟩ | ⟨image, -, -, e⟩ <;> rw [e] <;>
    exact softwareKept_refl s.asr

theorem wordWritten_software (k : ℕ) (s : State) : softwareKept s.asr (wordWritten k s).asr := by
  unfold wordWritten
  split <;> exact softwareKept_refl s.asr

/-- The event is a software write of the ASR: the condition `softwareWrite` on the event that comes next. -/
def eventWritesAsr (s : State) (e : BusEvent) : Prop :=
  (s.phase = .quiescent ∧ ∃ obj w, e = .periphWrite obj w ∧ obj.toNat < 4)
    ∨ ((∃ o, currentInstr s = .wrasr o) ∧ isExecuting s = true ∧ e = .elapse)

theorem softwareWrite_of_event {s : State} {e : BusEvent} {rest : List BusEvent} (hnext : comesNext s e rest)
    (h : eventWritesAsr { s with inbox := rest } e) : softwareWrite s := by
  rcases h with ⟨hphase, obj, w, rfl, h4⟩ | ⟨hw, hexec, rfl⟩
  · exact .inl ⟨hphase, obj, w, rest, comesNext_access hnext (by simp), h4⟩
  · exact .inr ⟨hw, hexec, comesNext_elapse hnext⟩

/-- The event cuts WRASR short: the condition `cutsWrasrShort` on the event that comes next. -/
def eventCutsWrasr (s : State) (e : BusEvent) : Prop :=
  (∃ o, currentInstr s = .wrasr o)
    ∧ ((isExecuting s = true ∧ (e = .reset ∨ e = .intAck ∨ (∃ w, e = .periphWrite 7 w) ∨ ∃ w ok, e = .broadcast w ok))
      ∨ ((∃ k, s.phase = .cAwaitOperands k) ∧ e = .intAck))

theorem cutsWrasrShort_of_event {s : State} {e : BusEvent} {rest : List BusEvent} (hnext : comesNext s e rest)
    (h : eventCutsWrasr { s with inbox := rest } e) : cutsWrasrShort s := by
  obtain ⟨hw, ⟨hexec, he⟩ | ⟨hk, rfl⟩⟩ := h
  · refine ⟨hw, rest, .inl ⟨hexec, ?_⟩⟩
    rcases he with rfl | rfl | ⟨w, rfl⟩ | ⟨w, ok, rfl⟩ <;> have hi := comesNext_access hnext (by simp)
    · exact .inl hi
    · exact .inr (.inl hi)
    · exact .inr (.inr (.inl ⟨w, hi⟩))
    · exact .inr (.inr (.inr ⟨w, ok, hi⟩))
  · exact ⟨hw, rest, .inr ⟨hk, comesNext_access hnext (by simp)⟩⟩

/-- Everything an effect can do to what software owns: keep it, write the ASR, or cut WRASR short, which still keeps the
masks, RC, NTNC and FE. -/
theorem effect_software {s t : State} {e : BusEvent} (h : Effect s e t) :
    softwareKept s.asr t.asr ∨ eventWritesAsr s e ∨ (sameControls s.asr t.asr ∧ eventCutsWrasr s e) := by
  cases h with
  | writeAsr obj w hphase h4 => exact .inr (.inl (.inl ⟨hphase, obj, w, rfl, h4⟩))
  | executed t hexec _ _ hrun =>
    by_cases hw : ∃ o, currentInstr s = .wrasr o
    · exact .inr (.inl (.inr ⟨hw, hexec, rfl⟩))
    · exact .inl (exec_softwareKept hrun (not_exists.mp hw))
  | reset =>
    exact (asrCutShort_software s).imp_right fun ⟨hc, hexec, hw⟩ => .inr ⟨hc, hw, .inl ⟨hexec, .inl rfl⟩⟩
  | writeCommand w =>
    exact (asrCutShort_software s).imp_right fun ⟨hc, hexec, hw⟩ =>
      .inr ⟨hc, hw, .inl ⟨hexec, .inr (.inr (.inl ⟨w, rfl⟩))⟩⟩
  | broadcastAborts w ok =>
    exact (asrCutShort_software s).imp_right fun ⟨hc, hexec, hw⟩ =>
      .inr ⟨hc, hw, .inl ⟨hexec, .inr (.inr (.inr ⟨w, ok, rfl⟩))⟩⟩
  | broadcastCommand w =>
    exact (asrCutShort_software s).imp_right fun ⟨hc, hexec, hw⟩ =>
      .inr ⟨hc, hw, .inl ⟨hexec, .inr (.inr (.inr ⟨w, true, rfl⟩))⟩⟩
  | intAckAborts hmode hphase =>
    refine (abortTransaction_software s).imp_right fun ⟨hc, hw⟩ => .inr ⟨hc, hw, ?_⟩
    rcases hphase with hk | hp
    · exact .inr ⟨hk, rfl⟩
    · exact .inl ⟨(isExecuting_iff s).mpr (.inr hp), .inr (.inl rfl)⟩
  | writeOperand obj w => exact .inl (latchWord_software w s)
  | fetchTaken w dsize k v => exact .inl (latchWord_software v s)
  | statusFirst => exact .inl (firstStatus_software s)
  | wordTaken dsize k => exact .inl (wordWritten_software k s)
  | _ => exact .inl (softwareKept_refl s.asr)

end Sys2Proof.Machine
end

section
/-! The obligation of the bits software owns: O11. -/

open Sys2Proof Sys2Proof.Machine

/-- Settles O11: of all effects, only a software write changes a control bit, and only that or WRASR cut short clears a
sticky bit. -/
theorem softwareOwnedBits : Obligations.SoftwareOwnedBits := by
  intro s t hstep hsoft
  obtain ⟨e, rest, hnext, h⟩ := step_effect hstep
  rcases effect_software h with ⟨hcontrols, hsticky⟩ | hw | ⟨hcontrols, hcut⟩
  · exact ⟨hcontrols, fun _ => hsticky⟩
  · exact absurd (softwareWrite_of_event hnext hw) hsoft
  · exact ⟨hcontrols, fun hn => absurd (cutsWrasrShort_of_event hnext hcut) hn⟩
end

section
/-! How an instruction ends in the special cases of the operation model: an invalid operation, a division by zero, an
operand delivered as if by MOVE (spec/41_operation_model.md R251 to R255). -/

namespace Sys2Proof.Machine

/-! ### The fault format of an operand -/

/-- The handler finds the operand in DR: its exponent field fits the 17 bits (spec/60_exceptions.md R415, R416). -/
theorem drHolds_operand {t : State} {mode : Mode} {draw : ℕ} {v : Extended} (h : t.dr = trapDr mode draw (.operand v)) :
    drHolds t v := by
  obtain ⟨hsign, hexp, hsig, -⟩ := faultImage_fields (Config.freeLgrs draw) (Config.freeGap draw) (extSign v)
    (BitVec.ofNat 17 (extExponent v)) (v.extractLsb' 0 64)
  have he : extExponent v < 2 ^ 15 := (v.extractLsb' 64 15).isLt
  unfold drHolds
  rw [h]
  refine ⟨hsign, ?_, hsig⟩
  rw [trapDr, faultImageOf, hexp, BitVec.toNat_ofNat, Nat.mod_eq_of_lt (by omega)]
  rfl

/-! ### Invalid operations -/

/-- A signalled invalid operation writes no destination and leaves the operand for the handler. -/
theorem invalidOperation_signalled (o : Operands) (v : Extended) {s : State} (h : invalidEnabled s.asr = true) :
    invalidTaken s (completeOperation o true (invalidOperation o s (.operand v)) s)
    ∧ drHolds (completeOperation o true (invalidOperation o s (.operand v)) s) v := by
  have e : invalidOperation o s (.operand v) = { deliverDatum o s .generatedNan with
      is := true, flags := trappedFlags s.draws, trap := some (.operand v) } := if_pos h
  rw [e]
  refine ⟨?_, drHolds_operand (mode := s.modeLock) (draw := s.draws) rfl⟩
  simp [completeOperation, invalidTaken, otherStickySame, deliverDatum, trappedFlags]

/-- One that is not signalled delivers the generated NaN and sets IS. -/
theorem invalidOperation_masked (o : Operands) (kept : Bool) (info : TrapInfo) {s : State}
    (h : invalidEnabled s.asr = false) :
    completeOperation o kept (invalidOperation o s info) s
      = deliverResult o kept { deliverDatum o s .generatedNan with is := true } s := by
  have e : invalidOperation o s info = { deliverDatum o s .generatedNan with is := true } := if_neg (by simp [h])
  rw [e]
  rfl

/-- The two ends of an instruction that is an invalid operation with an operand for the handler
(spec/41_operation_model.md R251). -/
theorem invalidOperand_ends {i : Instr} {o : Operands} {s : State} {v : Extended}
    (h : exec i s = .next (completeOperation o true (invalidOperation o s (.operand v)) s)) :
    (invalidEnabled s.asr = true → ∃ t, exec i s = .next t ∧ invalidTaken s t ∧ drHolds t v)
    ∧ (invalidEnabled s.asr = false → exec i s =
        .next (deliverResult o true { deliverDatum o s .generatedNan with is := true } s)) :=
  ⟨fun he => ⟨_, h, invalidOperation_signalled o v he⟩,
    fun he => h.trans (congrArg Host.Outcome.next (invalidOperation_masked o true _ he))⟩

/-! ### Delivery -/

/-- A result delivered to a register is written at once, or at the status fetch (spec/20_memory.md R98, R111). -/
theorem deliverResult_register {o : Operands} {q : Reg} {p : Prec} (hd : o.op3 = .reg q p) (kept : Bool) (r : OpResult)
    (s : State) : deliversRegister s.modeLock (deliverResult o kept r s) q r.reg := by
  refine ⟨fun hm => ?_, fun hm => ?_⟩
  · rw [deliverResult_regs, regsAfter_peripheral o _ hm, hd, regs_write_reg, regs_get_set_self]
  · simp [hm, hd, pendingFor]

/-- A result delivered to memory stands in DR, or is written out word by word (spec/20_memory.md R99, R112). -/
theorem deliverResult_words {o : Operands} {n : MemSize} (hd : o.op3 = .mem n) (r : OpResult) (s : State) :
    deliversWords s.modeLock (deliverResult o true r s) r.image := by
  refine ⟨fun hm => ?_, fun hm => ?_⟩
  · rw [deliverResult_dr, drAfter_mem _ hd (.inr hm)]
  · simp [hm, hd, pendingFor]

/-- An operation that yields a datum, and nothing to signal, delivers only that. -/
theorem deliversOnly_of_operation {i : Instr} {s : State} {r : OpResult} {d : Datum} (hop : operationOf i s = some r)
    (hk : keepsDr i = true) (h : r = deliverDatum i.operands s d) : deliversOnly i s d := by
  unfold deliversOnly
  rw [exec_operation hop, hk, h]
  rfl

/-! ### Numbers of exponent field 0 -/

/-- A significand with J = 1 has 64 bits. -/
theorem log2_extSignificand {v : Extended} (h : extJ v = true) : (extSignificand v).log2 = 63 := by
  have hbit : (extSignificand v).testBit 63 = true := (testBit_lowField v (len := 64) (by decide)).trans h
  have hge : 2 ^ 63 ≤ extSignificand v := Nat.ge_two_pow_of_testBit hbit
  have hlt : extSignificand v < 2 ^ 64 := (v.extractLsb' 0 64).isLt
  exact (Nat.log2_eq_iff (by omega)).mpr ⟨hge, hlt⟩

/-- A magnitude is its leading bits in its own unit, and twice that in half the unit. -/
theorem floorAt_exp (z : Exact) : z.floorAt z.exp = z.mant ∧ z.floorAt (z.exp - 1) = 2 * z.mant := by
  refine ⟨?_, ?_⟩
  · simp [Exact.floorAt, scale]
  · rw [Exact.floorAt, sub_sub_cancel, scale, if_pos (by decide), Int.toNat_one, Nat.shiftLeft_eq, pow_one, mul_comm]

/-- In its own unit and smaller ones only what follows the leading bits counts. -/
theorem exactAt_of_le {z : Exact} {q : ℤ} (hq : q ≤ z.exp) : z.exactAt q = !z.sticky := by simp [Exact.exactAt, hq]

/-- An exactly given magnitude is not rounded in its own unit. -/
theorem roundAt_exp (rc : RoundMode) {z : Exact} (hz : z.sticky = false) : roundAt rc z.exp z = z.mant := by
  obtain ⟨hfloor, hhalf⟩ := floorAt_exp z
  have hexact : z.exactAt z.exp = true := by rw [exactAt_of_le (le_refl _), hz]; rfl
  have hup : roundsUp rc z.exp z = false := by
    cases rc <;> simp [roundsUp, hexact, hhalf]
  rw [roundAt, hup, hfloor]
  rfl

/-- A normalized number of exponent field 0 is the smallest normalized exponent of double-extended, so `Finish` leaves it
and signals nothing (spec/40_data_formats.md R190, R196). -/
theorem finish_fieldZeroNormal (asr : Asr) (rc : RoundMode) {v : Extended} (h : isFieldZeroNormal v = true) :
    finish asr .extended rc false (extValue v)
      = ⟨false, false, false, none, .finite (extSign v) (extSignificand v) (-16445)⟩ := by
  simp only [isFieldZeroNormal, Bool.and_eq_true, beq_iff_eq] at h
  obtain ⟨he, hj⟩ := h
  have hlog : (extValue v).mant.log2 = 63 := log2_extSignificand hj
  have hmant : (extValue v).mant ≠ 0 := fun h0 => by simp [h0] at hlog
  have hexp : (extValue v).exp = -16445 := by simp [extValue, he]
  have htop : (extValue v).top = -16382 := by rw [Exact.top, hlog, hexp]; rfl
  have hunit : unitOf .extended (extValue v) = -16445 := by rw [unitOf, htop]; rfl
  have hround := roundAt_exp rc (z := extValue v) rfl
  have hexact : (extValue v).exactAt (-16445) = true := exactAt_of_le hexp.ge
  have hcases := finish_cases asr .extended rc false (extValue v) (.inl hmant)
  rw [hexp] at hround
  simp only [hunit, hround, htop, hlog, hexact, precEmax, precEmin] at hcases
  rcases hcases with ⟨hc, -⟩ | ⟨hc, -⟩ | ⟨-, hc, -⟩ | ⟨-, hc, -⟩ | ⟨-, -, e⟩
  · norm_num at hc
  · norm_num at hc
  · norm_num at hc
  · norm_num at hc
  · rw [e]
    rfl

/-! ### An operand as the result -/

/-- The two classes of a zero (spec/40_data_formats.md R198). -/
theorem isZero_iff {v : Extended} : isZero v = true ↔ classify v = .zero ∨ classify v = .unnormZero := by
  simp [isZero]

/-- `keepsPattern` is the condition on which `deliverNumber` copies. -/
theorem keepsPattern_iff (p : Prec) (v : Extended) : keepsPattern p v ↔ isFieldZeroNormal v = true ∧ p = .extended := by
  simp [keepsPattern, isFieldZeroNormal, and_comm]

/-- An operation that yields `deliverNumber` copies the number, whose real value is `x` (spec/41_operation_model.md
R255, log 19). -/
theorem copiesNumber_of_operation {i : Instr} {s : State} {r : OpResult} {v : Extended} (hop : operationOf i s = some r)
    (hk : keepsDr i = true) (h : r = deliverNumber i.operands s v) : copiesNumber i s v (extReal v) := by
  have hexec : exec i s = .next (completeOperation i.operands true (deliverNumber i.operands s v) s) := by
    rw [exec_operation hop, hk, h]
  unfold copiesNumber
  rw [keepsPattern_iff]
  rcases deliverNumber_cases i.operands s v with ⟨hv, hp, e⟩ | ⟨hv, e⟩ <;> rw [e] at hexec
  · refine ⟨fun _ => ?_, fun hn => absurd ⟨hv, hp⟩ hn⟩
    have hf : deliverExact i.operands s (extValue v) = deliverFinished i.operands s
        ⟨false, false, false, none, .finite (extSign v) (extSignificand v) (-16445)⟩ := by
      rw [deliverExact, hp, finish_fieldZeroNormal _ _ hv]
    rw [hf] at hexec
    refine ⟨_, hexec, rfl, rfl, rfl, rfl, rfl, rfl, rfl, rfl, Bool.or_false _, Bool.or_false _, Bool.or_false _,
      Bool.or_false _, Bool.or_false _, fun q p hd => deliverResult_register hd true _ s, fun hd => ?_⟩
    have himage : patternImage i.operands s v = 0#16 ++ v := by rw [patternImage, hd]
    rw [← himage]
    exact deliverResult_words hd _ s
  · exact ⟨fun hn => absurd hn hv, fun _ => ⟨_, standsFor_extValue v, hexec⟩⟩

/-- A copied number is delivered as such. -/
theorem copies.number {i : Instr} {s : State} {v : Extended} (h : copies i s v) (hv : isNumber v) :
    copiesNumber i s v (extReal v) := h.1 hv

/-- A copied infinity is delivered as such. -/
theorem copies.infinity {i : Instr} {s : State} {v : Extended} (h : copies i s v) (hv : isInfinity v) :
    deliversOnly i s (.infinity (extSign v)) := h.2.1 hv

/-- An operation that yields `deliverOperand` delivers the operand as if by MOVE (spec/41_operation_model.md R255). -/
theorem copies_of_operation {i : Instr} {s : State} {r : OpResult} {v : Extended} (hop : operationOf i s = some r)
    (hk : keepsDr i = true) (h : r = deliverOperand i.operands s v) : copies i s v := by
  refine ⟨fun hc => copiesNumber_of_operation hop hk ?_, fun hc => deliversOnly_of_operation hop hk ?_,
    fun hc => deliversOnly_of_operation hop hk ?_, fun hc => deliversOnly_of_operation hop hk ?_⟩ <;> rw [h]
  · rw [deliverOperand, show classify v = .normal from hc]
  · rw [deliverOperand, show classify v = .infinity from hc]
  · rcases isZero_iff.mp hc with hz | hz <;> rw [deliverOperand, hz]
  · rw [deliverOperand, hc]

end Sys2Proof.Machine
end

section
/-! The tables of ADD, MUL, DIV and REM (spec/42_arithmetic.md R282 to R286), one equation per special case; SUB is ADD with
Op1's sign complemented (R283). -/

namespace Sys2Proof.Machine

/-! ### Classes -/

/-- Neither a NaN nor an infinity. -/
def isFiniteOperand (v : Extended) : Prop := isNumber v ∨ isZero v = true

/-- A finite operand is in none of the special classes. -/
theorem isFiniteOperand.classify_ne {v : Extended} (h : isFiniteOperand v) :
    classify v ≠ .trappingNan ∧ classify v ≠ .quietNan ∧ classify v ≠ .infinity := by
  rcases h with h | h
  · rw [show classify v = .normal from h]
    decide
  · rcases isZero_iff.mp h with h | h <;> rw [h] <;> decide

theorem isNumber.isZero_eq {v : Extended} (h : isNumber v) : isZero v = false := by
  rw [isZero, show classify v = .normal from h]
  rfl

theorem isInfinity.isZero_eq {v : Extended} (h : isInfinity v) : isZero v = false := by
  rw [isZero, show classify v = .infinity from h]
  rfl

/-- An operand is no NaN when it is in neither class of NaNs. -/
theorem isNan_eq_false_iff {v : Extended} : isNan v = false ↔ classify v ≠ .trappingNan ∧ classify v ≠ .quietNan := by
  simp [isNan]

/-- Replacing the sign of a zero leaves a zero. -/
@[simp] theorem extWithSign_isZero (neg : Bool) (v : Extended) : isZero (extWithSign neg v) = isZero v := by
  simp [isZero]

/-! ### NaNs -/

section
variable (o : Operands) (s : State) {a b : Extended}

/-- A trapping NaN makes all four invalid. -/
theorem operations_trappingNan (h : classify a = .trappingNan ∨ classify b = .trappingNan) :
    addOperation o s a b = invalidPair o s a b ∧ mulOperation o s a b = invalidPair o s a b
    ∧ divOperation o s a b = invalidPair o s a b ∧ remOperation o s a b = invalidPair o s a b :=
  ⟨if_pos h, if_pos h, if_pos h, if_pos h⟩

/-- Op1 is propagated when it is a nontrapping NaN, whatever Op2 but a trapping one (spec/41_operation_model.md R255). -/
theorem operations_quietNan1 (ha : classify a = .quietNan) (hb : classify b ≠ .trappingNan) :
    addOperation o s a b = deliverOperand o s a ∧ mulOperation o s a b = deliverOperand o s a
    ∧ divOperation o s a b = deliverOperand o s a ∧ remOperation o s a b = deliverOperand o s a := by
  simp [addOperation, mulOperation, divOperation, remOperation, ha, hb]

/-- Op2 is propagated when only it is a NaN. -/
theorem operations_quietNan2 (ha : isNan a = false) (hb : classify b = .quietNan) :
    addOperation o s a b = deliverOperand o s b ∧ mulOperation o s a b = deliverOperand o s b
    ∧ divOperation o s a b = deliverOperand o s b ∧ remOperation o s a b = deliverOperand o s b := by
  obtain ⟨ht, hq⟩ := isNan_eq_false_iff.mp ha
  simp [addOperation, mulOperation, divOperation, remOperation, ht, hq, hb]

/-! ### ADD (R282) -/

/-- Infinities of one sign add up to Op1. -/
theorem addOperation_infinities (ha : isInfinity a) (hb : isInfinity b) (hs : extSign a = extSign b) :
    addOperation o s a b = deliverOperand o s a := by
  unfold isInfinity at ha hb
  simp [addOperation, ha, hb, hs]

/-- An infinity and a finite operand add up to the infinity. -/
theorem addOperation_infinity1 (ha : isInfinity a) (hb : isFiniteOperand b) :
    addOperation o s a b = deliverOperand o s a := by
  obtain ⟨ht, hq, hi⟩ := hb.classify_ne
  unfold isInfinity at ha
  simp [addOperation, ha, ht, hq, hi]

theorem addOperation_infinity2 (ha : isFiniteOperand a) (hb : isInfinity b) :
    addOperation o s a b = deliverOperand o s b := by
  obtain ⟨ht, hq, hi⟩ := ha.classify_ne
  unfold isInfinity at hb
  simp [addOperation, hb, ht, hq, hi]

/-- A zero and a number add up to the number. -/
theorem addOperation_zero1 (ha : isZero a = true) (hb : isNumber b) : addOperation o s a b = deliverOperand o s b := by
  obtain ⟨ht, hq, hi⟩ := isFiniteOperand.classify_ne (.inr ha)
  obtain ⟨ht', hq', hi'⟩ := isFiniteOperand.classify_ne (.inl hb)
  simp [addOperation, ht, hq, hi, ht', hq', hi', ha, hb.isZero_eq]

theorem addOperation_zero2 (ha : isNumber a) (hb : isZero b = true) : addOperation o s a b = deliverOperand o s a := by
  obtain ⟨ht, hq, hi⟩ := isFiniteOperand.classify_ne (.inl ha)
  obtain ⟨ht', hq', hi'⟩ := isFiniteOperand.classify_ne (.inr hb)
  simp [addOperation, ht, hq, hi, ht', hq', hi', ha.isZero_eq, hb]

/-- Zeros add up to a zero, of the mode's sign when theirs differ (the spec's decision D29, log 22). -/
theorem addOperation_zeros (ha : isZero a = true) (hb : isZero b = true) :
    addOperation o s a b = deliverDatum o s
      (.zero (if extSign a = extSign b then extSign a else decide (roundMode o s = .towardMinus))) := by
  obtain ⟨ht, hq, hi⟩ := isFiniteOperand.classify_ne (.inr ha)
  obtain ⟨ht', hq', hi'⟩ := isFiniteOperand.classify_ne (.inr hb)
  simp [addOperation, ht, hq, hi, ht', hq', hi', ha, hb, zeroSumSign, beq_eq_decide]

/-! ### MUL (R284) -/

/-- An infinity and an operand that is no zero multiply to an infinity. -/
theorem mulOperation_infinity1 (ha : isInfinity a) (hb : isInfinity b ∨ isNumber b) :
    mulOperation o s a b = deliverDatum o s (.infinity (extSign a != extSign b)) := by
  unfold isInfinity isNumber at *
  rcases hb with hb | hb <;> simp [mulOperation, ha, hb, isZero]

theorem mulOperation_infinity2 (ha : isNumber a) (hb : isInfinity b) :
    mulOperation o s a b = deliverDatum o s (.infinity (extSign a != extSign b)) := by
  unfold isInfinity isNumber at *
  simp [mulOperation, ha, hb, isZero]

/-- A zero and a finite operand multiply to a zero. -/
theorem mulOperation_zero (ha : isFiniteOperand a) (hb : isFiniteOperand b) (h : isZero a = true ∨ isZero b = true) :
    mulOperation o s a b = deliverDatum o s (.zero (extSign a != extSign b)) := by
  obtain ⟨ht, hq, hi⟩ := ha.classify_ne
  obtain ⟨ht', hq', hi'⟩ := hb.classify_ne
  simp [mulOperation, ht, hq, hi, ht', hq', hi', h]

/-! ### DIV (R285): `a` is the divisor, `b` the dividend -/

/-- A finite dividend over an infinity is a zero. -/
theorem divOperation_infinity1 (ha : isInfinity a) (hb : isFiniteOperand b) :
    divOperation o s a b = deliverDatum o s (.zero (extSign a != extSign b)) := by
  obtain ⟨ht, hq, hi⟩ := hb.classify_ne
  unfold isInfinity at ha
  simp [divOperation, ha, ht, hq, hi]

/-- An infinity over a finite divisor is an infinity. -/
theorem divOperation_infinity2 (ha : isFiniteOperand a) (hb : isInfinity b) :
    divOperation o s a b = deliverDatum o s (.infinity (extSign a != extSign b)) := by
  obtain ⟨ht, hq, hi⟩ := ha.classify_ne
  unfold isInfinity at hb
  simp [divOperation, hb, ht, hq, hi]

/-- A zero over a number is a zero. -/
theorem divOperation_zero2 (ha : isNumber a) (hb : isZero b = true) :
    divOperation o s a b = deliverDatum o s (.zero (extSign a != extSign b)) := by
  obtain ⟨ht, hq, hi⟩ := isFiniteOperand.classify_ne (.inl ha)
  obtain ⟨ht', hq', hi'⟩ := isFiniteOperand.classify_ne (.inr hb)
  simp [divOperation, ht, hq, hi, ht', hq', hi', ha.isZero_eq, hb]

/-- A number over a zero is a division by zero. -/
theorem divOperation_byZero (ha : isZero a = true) (hb : isNumber b) : divOperation o s a b = divideByZero o s a b := by
  obtain ⟨ht, hq, hi⟩ := isFiniteOperand.classify_ne (.inr ha)
  obtain ⟨ht', hq', hi'⟩ := isFiniteOperand.classify_ne (.inl hb)
  simp [divOperation, ht, hq, hi, ht', hq', hi', ha, hb.isZero_eq]

/-! ### REM (R286): `a` is the divisor, `b` the dividend -/

/-- A zero dividend remains when the divisor is neither a NaN nor a zero. -/
theorem remOperation_zero2 (ha : isInfinity a ∨ isNumber a) (hb : isZero b = true) :
    remOperation o s a b = deliverDatum o s (.zero (extSign b)) := by
  obtain ⟨ht, hq, hi⟩ := isFiniteOperand.classify_ne (.inr hb)
  unfold isInfinity isNumber at ha
  have haz : isZero a = false := by rcases ha with ha | ha <;> simp [isZero, ha]
  rcases ha with ha | ha <;> simp [remOperation, ha, haz, ht, hq, hi, hb]

/-- A number remains when the divisor is an infinity. -/
theorem remOperation_infinity1 (ha : isInfinity a) (hb : isNumber b) : remOperation o s a b = deliverOperand o s b := by
  unfold isInfinity isNumber at *
  simp [remOperation, ha, hb, isZero]

end

/-! ### The instructions -/

/-- ADD, DIV, REM and MUL with a trapping NaN are invalid, with Op1 for the handler if it is one, else Op2
(spec/41_operation_model.md R251). -/
theorem exec_twoOperands_trappingNan {i : Instr} {o : Operands} {s : State} (hi : twoOperands i o)
    (h : classify (source1 o s) = .trappingNan ∨ classify (source2 o s) = .trappingNan) :
    exec i s = .next (completeOperation o true (invalidPair o s (source1 o s) (source2 o s)) s) := by
  obtain ⟨hadd, hmul, hdiv, hrem⟩ := operations_trappingNan o s h
  rcases hi with rfl | rfl | rfl | rfl
  · rw [← hadd]; rfl
  · rw [← hdiv]; rfl
  · rw [← hrem]; rfl
  · rw [← hmul]; rfl

/-- SUB with a trapping NaN is invalid, with the complemented Op1 for the handler if it is one, else Op2 (the spec's
decision D32, log 25). -/
theorem exec_sub_trappingNan {o : Operands} {s : State}
    (h : classify (source1 o s) = .trappingNan ∨ classify (source2 o s) = .trappingNan) :
    exec (.sub o) s = .next (completeOperation o true
      (invalidPair o s (extWithSign (!extSign (source1 o s)) (source1 o s)) (source2 o s)) s) := by
  have h' : classify (extWithSign (!extSign (source1 o s)) (source1 o s)) = .trappingNan
      ∨ classify (source2 o s) = .trappingNan := by rwa [extWithSign_classify]
  rw [← (operations_trappingNan o s h').1]
  rfl

/-- The instructions of one source are invalid with a trapping NaN. -/
theorem exec_oneOperand_trappingNan {i : Instr} {o : Operands} {s : State} (hi : oneOperand i o)
    (h : classify (source1 o s) = .trappingNan) :
    exec i s = .next (completeOperation o true (invalidOperation o s (.operand (source1 o s))) s) := by
  have hmove (v : Extended) : moveOperation o s (source1 o s) v = invalidOperation o s (.operand (source1 o s)) := if_pos h
  have hsqrt : sqrtOperation o s (source1 o s) = invalidOperation o s (.operand (source1 o s)) := by
    rw [sqrtOperation, h]
  have hrtoi : rtoiOperation o s (source1 o s) = invalidOperation o s (.operand (source1 o s)) := by
    rw [rtoiOperation, h]
  have htrig (fn : TrigFn) : trigOperation fn o s (source1 o s) = invalidOperation o s (.operand (source1 o s)) := by
    rw [trigOperation, h]
  rcases hi with rfl | rfl | rfl | rfl | rfl | rfl | rfl | rfl
  · rw [← hmove (source1 o s)]; rfl
  · rw [← hmove (extWithSign false (source1 o s))]; rfl
  · rw [← hmove (extWithSign (!extSign (source1 o s)) (source1 o s))]; rfl
  · rw [← hsqrt]; rfl
  · rw [← hrtoi]; rfl
  · rw [← htrig .sin]; rfl
  · rw [← htrig .cos]; rfl
  · rw [← htrig .atan]; rfl

/-- ADD, DIV, REM and MUL copy what all four operations deliver. -/
theorem copies_of_operations {o : Operands} {s : State} {v : Extended}
    (h : addOperation o s (source1 o s) (source2 o s) = deliverOperand o s v
      ∧ mulOperation o s (source1 o s) (source2 o s) = deliverOperand o s v
      ∧ divOperation o s (source1 o s) (source2 o s) = deliverOperand o s v
      ∧ remOperation o s (source1 o s) (source2 o s) = deliverOperand o s v) {i : Instr} (hi : twoOperands i o) :
    copies i s v := by
  obtain ⟨hadd, hmul, hdiv, hrem⟩ := h
  rcases hi with rfl | rfl | rfl | rfl
  · exact copies_of_operation (i := .add o) rfl rfl hadd
  · exact copies_of_operation (i := .div o) rfl rfl hdiv
  · exact copies_of_operation (i := .rem o) rfl rfl hrem
  · exact copies_of_operation (i := .mul o) rfl rfl hmul

/-! ### Division by zero -/

/-- A signalled division by zero writes no destination and leaves the dividend for the handler
(spec/60_exceptions.md R418). -/
theorem divideByZero_signalled (o : Operands) {s : State} (a b : Extended) (h : s.asr.qm = true) :
    completeOperation o true (divideByZero o s a b) s
      = raiseException { deliverDatum o s (.infinity (extSign a != extSign b)) with
          qs := true, flags := trappedFlags s.draws, trap := some (.operand b) } (.operand b) s := by
  rw [divideByZero, if_pos h]
  rfl

/-- One that is not signalled delivers an infinity and sets QS (spec/41_operation_model.md R254). -/
theorem divideByZero_masked (o : Operands) {s : State} (a b : Extended) (h : s.asr.qm = false) :
    completeOperation o true (divideByZero o s a b) s
      = deliverResult o true { deliverDatum o s (.infinity (extSign a != extSign b)) with qs := true } s := by
  rw [divideByZero, if_neg (by simp [h])]
  rfl

/-! ### Conversions with a register in the place of memory -/

/-- FTOI converts neither NaNs nor infinities. -/
theorem ftoiSpecial_iff (a : Extended) : ftoiSpecial a = true ↔ isNan a = true ∨ isInfinity a := by
  simp [ftoiSpecial, isInfinity]

/-- A register destination of FTOI is tested before the operand; the operand tells how the register ends (the spec's
decision D38, log 31). -/
theorem ftoiOperation_register {o : Operands} (s : State) (a : Extended) (hd : dstIsReg o.op3 = true) :
    (ftoiSpecial a = true → ftoiOperation o s a = ftoiSpecialToRegister o s a)
    ∧ (ftoiSpecial a = false → ftoiOperation o s a = invalidOperation o s (.operand a)) := by
  refine ⟨fun h => ?_, fun h => ?_⟩ <;> simp [ftoiOperation, hd, h]

/-- A signalled FTOI of a NaN or infinity to a register ends like any other invalid operation. -/
theorem ftoiSpecialToRegister_signalled (o : Operands) {s : State} (a : Extended) (h : invalidEnabled s.asr = true) :
    completeOperation o true (ftoiSpecialToRegister o s a) s
      = completeOperation o true (invalidOperation o s (.operand a)) s := by
  rw [ftoiSpecialToRegister, toIntegerInvalid, invalidOperation, if_pos h, if_pos h]
  rfl

/-- One that is not signalled delivers what the register holds. -/
theorem ftoiSpecialToRegister_masked (o : Operands) {s : State} (a : Extended) (h : invalidEnabled s.asr = false) :
    completeOperation o true (ftoiSpecialToRegister o s a) s
      = deliverResult o true (ftoiSpecialToRegister o s a) s := by
  rw [ftoiSpecialToRegister, toIntegerInvalid, if_neg (by simp [h])]
  rfl

/-- What it delivers is the register's value. -/
theorem ftoiSpecialToRegister_reg {o : Operands} {q : Reg} {p : Prec} (hd : o.op3 = .reg q p) (s : State) (a : Extended) :
    (ftoiSpecialToRegister o s a).reg = s.regs.get q := by
  simp only [ftoiSpecialToRegister, registerBefore, hd]

/-- An operation that is invalid makes its instruction end so. -/
theorem invalidWith_of_operation {i : Instr} {s : State} {r : OpResult} {info : TrapInfo}
    (hop : operationOf i s = some r) (hk : keepsDr i = true) (h : r = invalidOperation i.operands s info) :
    invalidWith i s info := by
  rw [invalidWith, exec_operation hop, hk, h]

/-- Writing back the value a destination register holds changes no register. -/
theorem regsAfter_same {o : Operands} {q : Reg} {p : Prec} (hd : o.op3 = .reg q p) (s : State) :
    regsAfter o (s.regs.get q) s = s.regs := by
  unfold regsAfter
  split
  · rw [hd, regs_write_reg]
    refine regs_ext fun r => ?_
    by_cases hr : r = q
    · rw [hr, regs_get_set_self]
    · exact regs_get_set_ne s.regs _ hr
  · rfl

end Sys2Proof.Machine
end

section
/-! The rows of the ADD table as an instruction delivers them, for ADD and for SUB at once (spec/42_arithmetic.md R282,
R283). -/

namespace Sys2Proof.Machine

/-- The instruction adds `a` and `b` by the ADD table. -/
def adds (i : Instr) (s : State) (a b : Extended) : Prop :=
  operationOf i s = some (addOperation i.operands s a b) ∧ keepsDr i = true

theorem adds_add (o : Operands) (s : State) : adds (.add o) s (source1 o s) (source2 o s) := ⟨rfl, rfl⟩

/-- SUB adds Op1 with its sign complemented (R283, the spec's decision D32, log 25). -/
theorem adds_sub (o : Operands) (s : State) :
    adds (.sub o) s (extWithSign (!extSign (source1 o s)) (source1 o s)) (source2 o s) := ⟨rfl, rfl⟩

section
variable {i : Instr} {s : State} {a b : Extended}

theorem adds.copies_quietNan1 (h : adds i s a b) (ha : classify a = .quietNan) (hb : classify b ≠ .trappingNan) :
    copies i s a :=
  copies_of_operation h.1 h.2 (operations_quietNan1 i.operands s ha hb).1

theorem adds.copies_quietNan2 (h : adds i s a b) (ha : isNan a = false) (hb : classify b = .quietNan) : copies i s b :=
  copies_of_operation h.1 h.2 (operations_quietNan2 i.operands s ha hb).1

theorem adds.infinities (h : adds i s a b) (ha : isInfinity a) (hb : isInfinity b) (hs : extSign a = extSign b) :
    deliversOnly i s (.infinity (extSign a)) :=
  (copies_of_operation h.1 h.2 (addOperation_infinities i.operands s ha hb hs)).infinity ha

theorem adds.infinity1 (h : adds i s a b) (ha : isInfinity a) (hb : isFiniteOperand b) :
    deliversOnly i s (.infinity (extSign a)) :=
  (copies_of_operation h.1 h.2 (addOperation_infinity1 i.operands s ha hb)).infinity ha

theorem adds.infinity2 (h : adds i s a b) (ha : isFiniteOperand a) (hb : isInfinity b) :
    deliversOnly i s (.infinity (extSign b)) :=
  (copies_of_operation h.1 h.2 (addOperation_infinity2 i.operands s ha hb)).infinity hb

theorem adds.copies_zero1 (h : adds i s a b) (ha : isZero a = true) (hb : isNumber b) : copies i s b :=
  copies_of_operation h.1 h.2 (addOperation_zero1 i.operands s ha hb)

theorem adds.copies_zero2 (h : adds i s a b) (ha : isNumber a) (hb : isZero b = true) : copies i s a :=
  copies_of_operation h.1 h.2 (addOperation_zero2 i.operands s ha hb)

theorem adds.zeros (h : adds i s a b) (ha : isZero a = true) (hb : isZero b = true) :
    deliversOnly i s
      (.zero (if extSign a = extSign b then extSign a else decide (roundMode i.operands s = .towardMinus))) :=
  deliversOnly_of_operation h.1 h.2 (addOperation_zeros i.operands s ha hb)

end

end Sys2Proof.Machine
end

section
/-! The obligations of the special cases: O34, O36, O37 and O54. -/

open Sys2Proof Sys2Proof.Machine

/-- Settles O34: each instruction ends as an invalid operation with the operand named, in one of its two ends. -/
theorem trappingNan : Obligations.TrappingNan := by
  intro i o s
  refine ⟨fun hi h => invalidOperand_ends (exec_twoOperands_trappingNan hi h), fun hi h => ?_,
    fun hi h => invalidOperand_ends (exec_oneOperand_trappingNan hi h)⟩
  subst hi
  have hends := invalidOperand_ends (exec_sub_trappingNan h)
  rwa [extWithSign_classify] at hends

/-- Settles O36: each clause is a row of a table; SUB has the rows of ADD with the complemented Op1, of Op1's class and
the other sign. -/
theorem specialCaseResults : Obligations.SpecialCaseResults := by
  intro o s
  have hadd := adds_add o s
  have hsub := adds_sub o s
  have hreal := extReal_flipSign (source1 o s)
  have hsign := extWithSign_sign (!extSign (source1 o s)) (source1 o s)
  have hclass := extWithSign_classify (!extSign (source1 o s)) (source1 o s)
  generalize extWithSign (!extSign (source1 o s)) (source1 o s) = a' at hsub hreal hsign hclass ⊢
  have hnan : isNan a' = isNan (source1 o s) := by rw [isNan, isNan, hclass]
  have hzero : isZero a' = isZero (source1 o s) := by rw [isZero, isZero, hclass]
  have hinf : isInfinity a' ↔ isInfinity (source1 o s) := by rw [isInfinity, isInfinity, hclass]
  have hnum : isNumber a' ↔ isNumber (source1 o s) := by rw [isNumber, isNumber, hclass]
  have hfin : isFiniteOperand a' ↔ isFiniteOperand (source1 o s) := by rw [isFiniteOperand, isFiniteOperand, hnum, hzero]
  have mul {d} (h : mulOperation o s (source1 o s) (source2 o s) = deliverDatum o s d) : deliversOnly (.mul o) s d :=
    deliversOnly_of_operation rfl rfl h
  have div {d} (h : divOperation o s (source1 o s) (source2 o s) = deliverDatum o s d) : deliversOnly (.div o) s d :=
    deliversOnly_of_operation rfl rfl h
  have rem {d} (h : remOperation o s (source1 o s) (source2 o s) = deliverDatum o s d) : deliversOnly (.rem o) s d :=
    deliversOnly_of_operation rfl rfl h
  refine ⟨fun ha hb => ⟨fun i hi => copies_of_operations (operations_quietNan1 o s ha hb) hi, ?_⟩,
    fun ha hb => ⟨fun i hi => copies_of_operations (operations_quietNan2 o s ha hb) hi, ?_⟩,
    fun ha hb => ⟨hadd.infinities ha hb, fun he => ?_⟩,
    fun ha hb => rem (remOperation_zero2 o s (.inl ha) hb),
    fun ha hb => copies_of_operation (i := .rem o) rfl rfl (remOperation_infinity1 o s ha hb),
    fun ha hb => mul (mulOperation_infinity2 o s ha hb),
    fun ha hb => ⟨hadd.copies_zero1 ha hb, hsub.copies_zero1 (hzero.trans ha) hb,
      mul (mulOperation_zero o s (.inr ha) (.inl hb) (.inl ha))⟩,
    fun ha hb => ⟨hadd.copies_zero2 ha hb, ?_⟩,
    fun ha hb => ⟨hadd.infinity1 ha hb, ?_, div (divOperation_infinity1 o s ha hb)⟩,
    fun ha hb => ⟨hadd.infinity2 ha hb, hsub.infinity2 (hfin.mpr ha) hb, div (divOperation_infinity2 o s ha hb)⟩,
    fun ha hb => mul (mulOperation_infinity1 o s ha hb),
    fun ha hb => ⟨mul (mulOperation_zero o s (.inl ha) (.inr hb) (.inr hb)), div (divOperation_zero2 o s ha hb),
      rem (remOperation_zero2 o s (.inr ha) hb)⟩,
    fun ha hb => ⟨hadd.zeros ha hb, ?_, mul (mulOperation_zero o s (.inr ha) (.inr hb) (.inl ha))⟩⟩
  · exact hsub.copies_quietNan1 (hclass.trans ha) hb
  · exact hsub.copies_quietNan2 (hnan.trans ha) hb
  · have hs : extSign a' = extSign (source2 o s) := by
      rw [hsign]
      exact Bool.not_eq_eq_eq_not.mpr (Bool.eq_not.mpr he)
    rw [← hs]
    exact hsub.infinities (hinf.mpr ha) hb hs
  · rw [← hreal]
    exact (hsub.copies_zero2 (hnum.mpr ha) hb).number (hnum.mpr ha)
  · rw [← hsign]
    exact hsub.infinity1 (hinf.mpr ha) hb
  · have hz := hsub.zeros (hzero.trans ha) hb
    rw [hsign] at hz
    split at hz
    · next hs => rwa [if_pos hs, ← hs]
    · next hs => rwa [if_neg hs]

/-- Settles O37: the division by zero of the DIV table, in its two ends. -/
theorem divideByZero : Obligations.DivideByZero := by
  intro o s ha hb
  have hexec : exec (.div o) s
      = .next (completeOperation o true (Machine.divideByZero o s (source1 o s) (source2 o s)) s) := by
    rw [← divOperation_byZero o s ha hb]
    rfl
  refine ⟨fun hq => ?_, fun hq => ?_⟩
  · rw [hexec, divideByZero_signalled o _ _ hq]
    refine ⟨_, rfl, ?_, ?_, rfl, rfl, rfl, raiseException_pending .., ?_, ?_, ?_, ?_,
      drHolds_operand (mode := s.modeLock) (draw := s.draws) rfl⟩ <;> simp [deliverDatum]
  · rw [hexec, divideByZero_masked o _ _ hq]

/-- Settles O54: a register destination or source is an invalid operation by the first test of the conversion; FTOI of a
NaN or infinity writes the register back when nothing is signalled. -/
theorem conversionRegisterInvalid : Obligations.ConversionRegisterInvalid := by
  intro o s
  refine ⟨fun q p hd => ?_, fun q hs => ?_⟩
  · have hreg : dstIsReg o.op3 = true := by rw [hd]; rfl
    obtain ⟨hspecial, hother⟩ := ftoiOperation_register s (source1 o s) hreg
    have hsp := ftoiSpecial_iff (source1 o s)
    have hexec : exec (.ftoi o) s = .next (completeOperation o true (ftoiOperation o s (source1 o s)) s) := rfl
    refine ⟨fun h => ?_, fun hen h => ?_, ?_⟩
    · cases hc : ftoiSpecial (source1 o s) with
      | false => exact invalidWith_of_operation (i := .ftoi o) rfl rfl (hother hc)
      | true =>
        have hen : invalidEnabled s.asr = true :=
          h.resolve_right fun ⟨hn, hi⟩ => (hsp.mp hc).elim (by simp [hn]) hi
        rw [hspecial hc, ftoiSpecialToRegister_signalled o _ hen] at hexec
        exact hexec
    · rw [hexec, hspecial (hsp.mpr h), ftoiSpecialToRegister_masked o _ hen]
      have hr := ftoiSpecialToRegister_reg hd s (source1 o s)
      refine ⟨_, rfl, ?_, ?_, Bool.or_true _, rfl, rfl, rfl,
        ⟨Bool.or_false _, Bool.or_false _, Bool.or_false _, Bool.or_false _⟩⟩
      · rw [deliverResult_regs, hr, regsAfter_same hd]
      · rw [← hr]
        exact deliverResult_register hd true _ s
    · have hftod : ftodOperation o s (source1 o s) = invalidOperation o s (.operand (source1 o s)) := if_pos hreg
      rw [← hftod]
      rfl
  · have hreg : srcIsReg o.op1 = true := by rw [hs]; rfl
    exact ⟨invalidWith_of_operation (i := .itof o) rfl rfl (if_pos hreg),
      invalidWith_of_operation (i := .dtof o) rfl rfl (if_pos hreg)⟩
end

section
/-! Rounding to a grid, against the real numbers (spec/41_operation_model.md R240, R241, R247): what the leading bits of an
`Exact` tell of the number it stands for. -/

namespace Sys2Proof.Machine

/-! ### Scaling -/

/-- Scaling up multiplies. -/
theorem scale_natCast (n k : ℕ) : scale n k = n * 2 ^ k := by
  rw [scale, if_pos (by omega), Int.toNat_natCast, Nat.shiftLeft_eq]

/-- Scaling down divides, the bits below the point dropped. -/
theorem scale_neg_natCast (n k : ℕ) : scale n (-(k : ℤ)) = n / 2 ^ k := by
  cases k with
  | zero => simp [scale]
  | succ k => rw [scale, if_neg (by omega), neg_neg, Int.toNat_natCast, Nat.shiftRight_eq_div_pow]

/-! ### Signs -/

/-- A number is its sign times its magnitude. -/
theorem standsFor.eq_signFactor_mul {z : Exact} {x : ℝ} (h : standsFor z x) : x = signFactor z.neg * |x| := by
  obtain ⟨-, hs⟩ := h
  rcases eq_or_ne x 0 with rfl | hx
  · simp
  · have hneg := hs hx
    cases hn : z.neg <;> simp only [hn, signFactor, Bool.false_eq_true, false_iff, true_iff, not_lt, if_true,
      if_false] at hneg ⊢
    · rw [one_mul, abs_of_nonneg hneg]
    · rw [abs_of_neg hneg, neg_mul_neg, one_mul]

/-- The sign of a number that is not 0. -/
theorem standsFor.neg_eq {z : Exact} {x : ℝ} (h : standsFor z x) (hx : x ≠ 0) : z.neg = decide (x < 0) := by
  rw [Bool.eq_iff_iff, h.2 hx, decide_eq_true_iff]

/-- A rounded magnitude with its sign. -/
def signedUnits (neg : Bool) (u : ℕ) : ℤ := if neg then -(u : ℤ) else u

@[simp] theorem signedUnits_cast (neg : Bool) (u : ℕ) : ((signedUnits neg u : ℤ) : ℝ) = signFactor neg * u := by
  cases neg <;> simp [signedUnits, signFactor]

theorem abs_signedUnits (neg : Bool) (u : ℕ) : |((signedUnits neg u : ℤ) : ℝ)| = u := by
  rw [signedUnits_cast, abs_mul, abs_signFactor, one_mul, Nat.abs_cast]

/-! ### What the leading bits tell -/

/-- In its own unit, the magnitude lies between the leading bits and the next integer, and is the leading bits exactly when
nothing follows them. -/
theorem standsFor.units {z : Exact} {x : ℝ} (h : standsFor z x) :
    (z.mant : ℝ) ≤ |x| / 2 ^ z.exp ∧ |x| / 2 ^ z.exp < z.mant + 1 ∧ (z.sticky = false ↔ |x| / 2 ^ z.exp = z.mant) := by
  have hpos : (0 : ℝ) < 2 ^ z.exp := by positivity
  obtain ⟨hm, -⟩ := h
  cases hs : z.sticky <;> simp only [hs, Bool.false_eq_true, if_true, if_false, magnitude] at hm
  · rw [hm, mul_div_cancel_right₀ _ hpos.ne']
    exact ⟨le_refl _, by linarith, by simp⟩
  · obtain ⟨-, hlow, hhigh⟩ := hm
    have hlow' := (lt_div_iff₀ hpos).mpr hlow
    exact ⟨hlow'.le, (div_lt_iff₀ hpos).mpr hhigh, by simp [hlow'.ne']⟩

/-- A magnitude in a unit `2^k` times larger. -/
theorem div_zpow_add_natCast (x : ℝ) (e : ℤ) (k : ℕ) : x / 2 ^ (e + k) = x / 2 ^ e / (2 ^ k : ℕ) := by
  rw [zpow_add₀ two_ne_zero, zpow_natCast, div_mul_eq_div_div]
  norm_cast

/-- A magnitude in a unit `2^k` times smaller. -/
theorem div_zpow_sub_natCast (x : ℝ) (e : ℤ) (k : ℕ) : x / 2 ^ (e - k) = x / 2 ^ e * (2 ^ k : ℕ) := by
  rw [zpow_sub₀ two_ne_zero, zpow_natCast, div_div_eq_mul_div, mul_div_right_comm]
  norm_cast

/-- `floorAt` counts the whole units, where what follows the leading bits is below the unit. -/
theorem floorAt_eq_floor {z : Exact} {x : ℝ} {q : ℤ} (h : standsFor z x) (hq : z.sticky = true → z.exp ≤ q) :
    (z.floorAt q : ℤ) = ⌊|x| / 2 ^ q⌋ := by
  obtain ⟨hlow, hhigh, hexact⟩ := h.units
  rcases le_or_gt z.exp q with hle | hgt
  · obtain ⟨k, rfl⟩ := Int.le.dest hle
    have hfloor : ⌊|x| / 2 ^ z.exp⌋₊ = z.mant := (Nat.floor_eq_iff (le_trans z.mant.cast_nonneg hlow)).mpr ⟨hlow, hhigh⟩
    rw [Exact.floorAt, sub_add_cancel_left, scale_neg_natCast, div_zpow_add_natCast,
      ← Int.natCast_floor_eq_floor (by positivity), Nat.floor_div_natCast, hfloor]
  · obtain ⟨k, hk⟩ := Int.le.dest hgt.le
    have hs : z.sticky = false := Bool.eq_false_iff.mpr fun hs => absurd (hq hs) (not_le.mpr hgt)
    obtain rfl : q = z.exp - k := by omega
    rw [Exact.floorAt, sub_sub_cancel, scale_natCast, div_zpow_sub_natCast, hexact.mp hs, ← Nat.cast_mul,
      Int.floor_natCast]

/-- The whole units and the next integer enclose the magnitude. -/
theorem floorAt_bounds {z : Exact} {x : ℝ} {q : ℤ} (h : standsFor z x) (hq : z.sticky = true → z.exp ≤ q) :
    (z.floorAt q : ℝ) ≤ |x| / 2 ^ q ∧ |x| / 2 ^ q < z.floorAt q + 1 := by
  have hf := Int.floor_eq_iff.mp (floorAt_eq_floor h hq).symm
  exact_mod_cast hf

/-- In a unit `2^k` times larger, nothing may follow the leading bits, and those must be whole units. -/
theorem exactAt_add_natCast (z : Exact) (k : ℕ) :
    z.exactAt (z.exp + k) = true ↔ z.sticky = false ∧ z.mant % 2 ^ k = 0 := by
  have hk : (z.exp + k - z.exp).toNat = k := by omega
  rw [Exact.exactAt, hk]
  cases k with
  | zero => simp [Nat.mod_one]
  | succ k => simp

/-- `exactAt` says whether the magnitude is whole units. -/
theorem exactAt_iff {z : Exact} {x : ℝ} {q : ℤ} (h : standsFor z x) (hq : z.sticky = true → z.exp ≤ q) :
    z.exactAt q = true ↔ (z.floorAt q : ℝ) = |x| / 2 ^ q := by
  obtain ⟨hlow, hhigh, hexact⟩ := h.units
  rcases le_or_gt z.exp q with hle | hgt
  · obtain ⟨k, rfl⟩ := Int.le.dest hle
    have hdiv := Nat.div_add_mod z.mant (2 ^ k)
    rw [exactAt_add_natCast, hexact, Exact.floorAt, sub_add_cancel_left, scale_neg_natCast, div_zpow_add_natCast,
      eq_div_iff (by positivity), ← Nat.cast_mul, mul_comm]
    refine ⟨fun ⟨hy, hm⟩ => by rw [hy, ← hdiv, hm, add_zero, Nat.mul_div_cancel_left _ (by positivity)], fun hy => ?_⟩
    rw [← hy] at hlow hhigh ⊢
    norm_cast at hlow hhigh ⊢
    omega
  · obtain ⟨k, hk⟩ := Int.le.dest hgt.le
    have hs : z.sticky = false := Bool.eq_false_iff.mpr fun hs => absurd (hq hs) (not_le.mpr hgt)
    obtain rfl : q = z.exp - k := by omega
    rw [exactAt_of_le hgt.le, hs, Exact.floorAt, sub_sub_cancel, scale_natCast, div_zpow_sub_natCast, hexact.mp hs]
    simp

/-- In half the unit there are twice as many whole units, and one more from the middle on. -/
theorem floorAt_half {z : Exact} {x : ℝ} {q : ℤ} (h : standsFor z x) (hq : z.sticky = true → z.exp < q) :
    (z.floorAt (q - 1) : ℝ) ≤ 2 * (|x| / 2 ^ q) ∧ 2 * (|x| / 2 ^ q) < z.floorAt (q - 1) + 1
    ∧ (z.exactAt (q - 1) = true ↔ (z.floorAt (q - 1) : ℝ) = 2 * (|x| / 2 ^ q)) := by
  have hq' : z.sticky = true → z.exp ≤ q - 1 := fun hs => Int.le_sub_one_of_lt (hq hs)
  have hy : |x| / 2 ^ (q - 1) = 2 * (|x| / 2 ^ q) := by
    rw [zpow_sub_one₀ two_ne_zero]
    field_simp
  obtain ⟨hlow, hhigh⟩ := floorAt_bounds h hq'
  have hexact := exactAt_iff h hq'
  rw [hy] at hlow hhigh hexact
  exact ⟨hlow, hhigh, hexact⟩

/-! ### The four modes -/

section
variable {z : Exact} {x : ℝ} {q : ℤ}

/-- RN takes the magnitude up past the middle, and in the middle when the whole units are odd. -/
theorem roundsUp_nearest_iff (h : standsFor z x) (hq : z.sticky = true → z.exp < q) :
    roundsUp .nearest q z = true
      ↔ z.floorAt q + 1 / 2 < |x| / 2 ^ q ∨ (|x| / 2 ^ q = z.floorAt q + 1 / 2 ∧ Odd (z.floorAt q)) := by
  obtain ⟨hlow, hhigh⟩ := floorAt_bounds h fun hs => (hq hs).le
  obtain ⟨hlow', hhigh', hexact⟩ := floorAt_half h hq
  simp only [roundsUp]
  generalize |x| / 2 ^ q = y at *
  generalize z.floorAt q = f at *
  generalize z.floorAt (q - 1) = g at *
  generalize z.exactAt (q - 1) = e at *
  have h1 : (2 * f : ℝ) < g + 1 := by linarith
  have h2 : (g : ℝ) < 2 * f + 2 := by linarith
  norm_cast at h1 h2
  obtain rfl | rfl : g = 2 * f ∨ g = 2 * f + 1 := by omega
  · push_cast at hhigh'
    simp only [Nat.mul_mod_right, Nat.reduceBEq, Bool.false_and, Bool.false_eq_true, false_iff]
    rintro (hgt | ⟨hmid, -⟩) <;> linarith
  · push_cast at hlow' hexact
    have hodd : (2 * f + 1) % 2 = 1 := by omega
    simp only [hodd, beq_self_eq_true, Bool.true_and, Bool.or_eq_true, Bool.not_eq_true', beq_iff_eq, Nat.odd_iff]
    have hmid : y = f + 1 / 2 ↔ (2 * f + 1 : ℝ) = 2 * y := by constructor <;> intro hm <;> linarith
    rw [hmid, ← hexact]
    cases e
    · have hne : (2 * f + 1 : ℝ) ≠ 2 * y := by simpa using hexact
      have hlt := lt_of_le_of_ne hlow' hne
      exact ⟨fun _ => .inl (by linarith), fun _ => .inl rfl⟩
    · have heq : (2 * f + 1 : ℝ) = 2 * y := hexact.mp rfl
      simp only [Bool.true_eq_false, false_or, true_and]
      exact (or_iff_right fun hgt => by linarith).symm

/-- A magnitude not taken up is its whole units. -/
theorem roundAt_of_truncates (rc : RoundMode) (h : standsFor z x) (hq : z.sticky = true → z.exp ≤ q)
    (hup : roundsUp rc q z = false) :
    (roundAt rc q z : ℝ) ≤ |x| / 2 ^ q ∧ |x| / 2 ^ q < roundAt rc q z + 1 := by
  have hu : roundAt rc q z = z.floorAt q := by rw [roundAt, hup]; rfl
  rw [hu]
  exact floorAt_bounds h hq

/-- A magnitude taken up unless it is whole units is the least integer not below it. -/
theorem roundAt_of_away (rc : RoundMode) (h : standsFor z x) (hq : z.sticky = true → z.exp ≤ q)
    (hup : roundsUp rc q z = !z.exactAt q) :
    |x| / 2 ^ q ≤ roundAt rc q z ∧ (roundAt rc q z : ℝ) < |x| / 2 ^ q + 1 := by
  obtain ⟨hlow, hhigh⟩ := floorAt_bounds h hq
  have hexact := exactAt_iff h hq
  cases he : z.exactAt q <;> rw [he] at hup hexact <;> rw [roundAt, hup]
  · have hlt : (z.floorAt q : ℝ) < |x| / 2 ^ q := lt_of_le_of_ne hlow (by simpa using hexact)
    simp only [Bool.not_false, Bool.toNat_true, Nat.cast_add, Nat.cast_one]
    exact ⟨hhigh.le, by linarith⟩
  · have heq : (z.floorAt q : ℝ) = |x| / 2 ^ q := by simpa using hexact
    simp only [Bool.not_true, Bool.toNat_false, add_zero]
    exact ⟨heq.ge, by linarith⟩

/-- RN: within half a unit, and even in the middle. -/
theorem roundAt_nearest (h : standsFor z x) (hq : z.sticky = true → z.exp < q) :
    |(roundAt .nearest q z : ℝ) - |x| / 2 ^ q| ≤ 1 / 2
    ∧ (|(roundAt .nearest q z : ℝ) - |x| / 2 ^ q| = 1 / 2 → Even (roundAt .nearest q z)) := by
  obtain ⟨hlow, hhigh⟩ := floorAt_bounds h fun hs => (hq hs).le
  have hiff := roundsUp_nearest_iff h hq
  unfold roundAt
  cases hup : roundsUp .nearest q z <;> rw [hup] at hiff
  · have hnot := not_or.mp (mt hiff.mpr Bool.false_ne_true)
    rw [Bool.toNat_false, add_zero, abs_of_nonpos (by linarith)]
    refine ⟨by linarith [not_lt.mp hnot.1], fun hmid => ?_⟩
    exact Nat.not_odd_iff_even.mp fun ho => hnot.2 ⟨by linarith, ho⟩
  · have hor := hiff.mp rfl
    rw [Bool.toNat_true, Nat.cast_add, Nat.cast_one, abs_of_pos (by linarith)]
    rcases hor with hgt | ⟨hmid, ho⟩
    · exact ⟨by linarith, fun hmid => by linarith⟩
    · exact ⟨by linarith, fun _ => ho.add_one⟩

/-- The magnitude rounded by `roundAt`, with its sign, is the number rounded in each of the modes
(spec/41_operation_model.md R240). -/
theorem roundAt_roundsTo (rc : RoundMode) (h : standsFor z x) (hq : z.sticky = true → z.exp < q) :
    roundsTo rc q x (signedUnits z.neg (roundAt rc q z)) := by
  have hq' : z.sticky = true → z.exp ≤ q := fun hs => (hq hs).le
  have hx : x / 2 ^ q = signFactor z.neg * (|x| / 2 ^ q) := by
    rw [← mul_div_assoc, ← h.eq_signFactor_mul]
  unfold roundsTo
  cases rc with
  | nearest =>
    obtain ⟨hle, heven⟩ := roundAt_nearest h hq
    have habs : |((signedUnits z.neg (roundAt .nearest q z) : ℤ) : ℝ) - x / 2 ^ q|
        = |(roundAt .nearest q z : ℝ) - |x| / 2 ^ q| := by
      rw [signedUnits_cast, hx, ← mul_sub, abs_mul, abs_signFactor, one_mul]
    simp only [habs]
    refine ⟨hle, fun hmid => ?_⟩
    have he := (Int.even_coe_nat _).mpr (heven hmid)
    unfold signedUnits
    split
    · exact he.neg
    · exact he
  | towardPlus =>
    have hup : roundsUp .towardPlus q z = (!z.neg && !z.exactAt q) := rfl
    simp only [signedUnits_cast, hx]
    cases hn : z.neg <;> rw [hn] at hup <;> simp only [signFactor, Bool.false_eq_true, if_true, if_false]
    · obtain ⟨h1, h2⟩ := roundAt_of_away .towardPlus h hq' (by simpa using hup)
      constructor <;> linarith
    · obtain ⟨h1, h2⟩ := roundAt_of_truncates .towardPlus h hq' (by simpa using hup)
      constructor <;> linarith
  | towardMinus =>
    have hup : roundsUp .towardMinus q z = (z.neg && !z.exactAt q) := rfl
    simp only [signedUnits_cast, hx]
    cases hn : z.neg <;> rw [hn] at hup <;> simp only [signFactor, Bool.false_eq_true, if_true, if_false]
    · obtain ⟨h1, h2⟩ := roundAt_of_truncates .towardMinus h hq' (by simpa using hup)
      constructor <;> linarith
    · obtain ⟨h1, h2⟩ := roundAt_of_away .towardMinus h hq' (by simpa using hup)
      constructor <;> linarith
  | towardZero =>
    obtain ⟨h1, h2⟩ := roundAt_of_truncates .towardZero h hq' rfl
    have h0 : 0 ≤ |x| / 2 ^ q := by positivity
    rw [abs_signedUnits, hx, abs_mul, abs_signFactor, one_mul, abs_of_nonneg h0, signedUnits_cast]
    refine ⟨h1, h2, ?_⟩
    have hsquare : signFactor z.neg * signFactor z.neg = 1 := by cases z.neg <;> simp [signFactor]
    calc (0 : ℝ) ≤ roundAt .towardZero q z * (|x| / 2 ^ q) := by positivity
      _ = signFactor z.neg * roundAt .towardZero q z * (signFactor z.neg * (|x| / 2 ^ q)) := by
        rw [mul_mul_mul_comm, hsquare, one_mul]

end

/-! ### The rounding is unique -/

/-- Of two integers nearest to a number, even in the middle, neither is above the other. -/
theorem le_of_nearest {m n : ℤ} {y : ℝ} (hm : |m - y| ≤ 1 / 2 ∧ (|m - y| = 1 / 2 → Even m))
    (hn : |n - y| ≤ 1 / 2 ∧ (|n - y| = 1 / 2 → Even n)) : m ≤ n := by
  by_contra hlt
  obtain ⟨-, hm2⟩ := abs_le.mp hm.1
  obtain ⟨hn1, -⟩ := abs_le.mp hn.1
  have hle : (m : ℝ) ≤ n + 1 := by linarith
  have hsucc : m = n + 1 := by
    norm_cast at hle
    omega
  subst hsucc
  push_cast at hm2 hm
  have hem := hm.2 (by rw [abs_of_pos] <;> linarith)
  have hen := hn.2 (by rw [abs_of_neg] <;> linarith)
  exact Int.not_even_iff_odd.mpr hen.add_one hem

/-- A number has one rounding in each mode. -/
theorem roundsTo_unique {rc : RoundMode} {q : ℤ} {x : ℝ} {m n : ℤ} (hm : roundsTo rc q x m) (hn : roundsTo rc q x n) :
    m = n := by
  unfold roundsTo at hm hn
  generalize x / 2 ^ q = y at hm hn
  cases rc with
  | nearest => exact le_antisymm (le_of_nearest hm hn) (le_of_nearest hn hm)
  | towardPlus =>
    obtain ⟨hm1, hm2⟩ := hm
    obtain ⟨hn1, hn2⟩ := hn
    have hmn : (m : ℝ) < n + 1 := by linarith
    have hnm : (n : ℝ) < m + 1 := by linarith
    norm_cast at hmn hnm
    omega
  | towardMinus =>
    obtain ⟨hm1, hm2⟩ := hm
    obtain ⟨hn1, hn2⟩ := hn
    have hmn : (m : ℝ) < n + 1 := by linarith
    have hnm : (n : ℝ) < m + 1 := by linarith
    norm_cast at hmn hnm
    omega
  | towardZero =>
    obtain ⟨hm1, hm2, hm3⟩ := hm
    obtain ⟨hn1, hn2, hn3⟩ := hn
    have hmn : |(m : ℝ)| < |(n : ℝ)| + 1 := by linarith
    have hnm : |(n : ℝ)| < |(m : ℝ)| + 1 := by linarith
    norm_cast at hmn hnm
    rcases abs_eq_abs.mp (show |m| = |n| by omega) with heq | hneg
    · exact heq
    · subst hneg
      push_cast at hm3 hm1
      have hprod : (n : ℝ) * y = 0 := by linarith
      rcases mul_eq_zero.mp hprod with h0 | h0
      · rw [Int.cast_eq_zero.mp h0, neg_zero]
      · rw [h0, abs_zero] at hn1
        rw [Int.cast_eq_zero.mp (abs_nonpos_iff.mp hn1), neg_zero]

/-- An integer multiple is its own rounding. -/
theorem roundsTo_self (rc : RoundMode) {q : ℤ} {x : ℝ} {n : ℤ} (h : x / 2 ^ q = n) : roundsTo rc q x n := by
  unfold roundsTo
  rw [h]
  cases rc with
  | nearest => simp
  | towardPlus => simp
  | towardMinus => simp
  | towardZero => exact ⟨le_refl _, by linarith, mul_self_nonneg _⟩

/-- A magnitude is whole units exactly when its rounding is the number itself. -/
theorem exactAt_iff_eq {rc : RoundMode} {z : Exact} {q : ℤ} {x : ℝ} {n : ℤ} (h : standsFor z x)
    (hq : z.sticky = true → z.exp ≤ q) (hn : roundsTo rc q x n) : z.exactAt q = true ↔ (n : ℝ) * 2 ^ q = x := by
  have hpos : (0 : ℝ) < 2 ^ q := by positivity
  rw [exactAt_iff h hq, ← eq_div_iff hpos.ne']
  refine ⟨fun he => ?_, fun he => ?_⟩
  · have hx : x / 2 ^ q = (signedUnits z.neg (z.floorAt q) : ℤ) := by
      rw [signedUnits_cast, he, ← mul_div_assoc, ← h.eq_signFactor_mul]
    rw [hx, roundsTo_unique hn (roundsTo_self rc hx)]
  · have habs : |x| / 2 ^ q = (n.natAbs : ℝ) := by
      rw [← abs_of_pos hpos, ← abs_div, ← he, Nat.cast_natAbs, Int.cast_abs]
    have hfloor := floorAt_eq_floor h hq
    rw [habs, Int.floor_natCast] at hfloor
    rw [habs]
    exact_mod_cast hfloor

end Sys2Proof.Machine
end

section
/-! The obligation of rounding: O44. -/

open Sys2Proof Sys2Proof.Machine

/-- Settles O44: the signed magnitude of `roundAt` is the rounding. -/
theorem roundingToGrid : Obligations.RoundingToGrid :=
  fun rc _ _ _ h hq => roundAt_roundsTo rc h hq
end

section
/-! `Finish` against the real numbers: the position of the leading bit before and after rounding decides between overflow,
underflow and a result in range (spec/41_operation_model.md R242 to R247). -/

namespace Sys2Proof.Machine

/-! ### The leading bit -/

/-- The leading bit of a number has one position. -/
theorem leadingBit_unique {x : ℝ} {E F : ℤ} (hE : leadingBit x E) (hF : leadingBit x F) : E = F := by
  have h1 := (zpow_lt_zpow_iff_right₀ one_lt_two).mp (lt_of_le_of_lt hE.1 hF.2)
  have h2 := (zpow_lt_zpow_iff_right₀ one_lt_two).mp (lt_of_le_of_lt hF.1 hE.2)
  omega

/-- Only an exact 0 has no leading bits. -/
theorem standsFor.mant_ne_zero {z : Exact} {x : ℝ} (h : standsFor z x) (hx : x ≠ 0) : z.mant ≠ 0 := by
  intro h0
  obtain ⟨-, hhigh, hexact⟩ := h.units
  cases hs : z.sticky
  · have habs := hexact.mp hs
    rw [h0, Nat.cast_zero, div_eq_zero_iff, abs_eq_zero] at habs
    exact habs.elim hx (by positivity)
  · obtain ⟨hm, -⟩ := h
    rw [if_pos hs, h0] at hm
    norm_num at hm

/-- The leading bit of the leading bits is that of the number. -/
theorem standsFor.leadingBit_top {z : Exact} {x : ℝ} (h : standsFor z x) (hx : x ≠ 0) : leadingBit x z.top := by
  obtain ⟨hlow, hhigh, -⟩ := h.units
  have hpos : (0 : ℝ) < 2 ^ z.exp := by positivity
  have hle : (2 : ℝ) ^ z.mant.log2 ≤ z.mant := by exact_mod_cast Nat.log2_self_le (h.mant_ne_zero hx)
  have hlt : (z.mant : ℝ) + 1 ≤ 2 ^ (z.mant.log2 + 1) := by exact_mod_cast Nat.lt_log2_self
  refine ⟨?_, ?_⟩
  · rw [Exact.top, zpow_add₀ two_ne_zero, zpow_natCast, ← le_div_iff₀ hpos]
    exact hle.trans hlow
  · rw [Exact.top, add_right_comm, zpow_add₀ two_ne_zero, ← Nat.cast_succ, zpow_natCast, ← div_lt_iff₀ hpos]
    exact hhigh.trans_le hlt

/-- The position of the leading bit of a number below a power of two. -/
theorem standsFor.top_lt {z : Exact} {x : ℝ} {k : ℤ} (h : standsFor z x) (hx : x ≠ 0) (hlt : |x| < (2 : ℝ) ^ k) :
    z.top < k :=
  (zpow_lt_zpow_iff_right₀ one_lt_two).mp ((h.leadingBit_top hx).1.trans_lt hlt)

/-- The unit in the last place, by the position of the leading bit. -/
theorem standsFor.unitOf_eq {z : Exact} {x : ℝ} {E : ℤ} (h : standsFor z x) (hx : x ≠ 0) (hE : leadingBit x E) (p : Prec) :
    E - precBits p + 1 = unitOf p z := by
  rw [unitOf, leadingBit_unique (h.leadingBit_top hx) hE]

theorem precBits_bounds (p : Prec) : 24 ≤ precBits p ∧ precBits p ≤ 64 := by cases p <;> decide

/-- Leading bits that more bits follow are enough for rounding, L, G, R and S in every precision. -/
theorem standsFor.exp_lt_unitOf {z : Exact} {x : ℝ} (h : standsFor z x) (p : Prec) (hs : z.sticky = true) :
    z.exp + 2 < unitOf p z := by
  obtain ⟨hm, -⟩ := h
  rw [if_pos hs] at hm
  have hlog : 68 ≤ z.mant.log2 := (Nat.le_log2 (by omega)).mpr hm.1
  obtain ⟨-, hp⟩ := precBits_bounds p
  rw [unitOf, Exact.top]
  omega

/-! ### The rounded magnitude -/

/-- A rounded magnitude keeps its precision: `P` bits, or `2^P` after a carry. -/
theorem roundAt_unitOf_bounds {z : Exact} {x : ℝ} (h : standsFor z x) (hx : x ≠ 0) (p : Prec) (rc : RoundMode) :
    0 < roundAt rc (unitOf p z) z ∧ roundAt rc (unitOf p z) z ≤ 2 ^ precBits p := by
  obtain ⟨hlow, hhigh⟩ := floorAt_bounds h (q := unitOf p z) fun hs => by have := h.exp_lt_unitOf p hs; omega
  obtain ⟨hle, hlt⟩ := h.leadingBit_top hx
  obtain ⟨hp, -⟩ := precBits_bounds p
  have hpos : (0 : ℝ) < 2 ^ unitOf p z := by positivity
  have hunit : unitOf p z ≤ z.top := by rw [unitOf]; omega
  have hone : (1 : ℝ) ≤ |x| / 2 ^ unitOf p z := by
    rw [le_div_iff₀ hpos, one_mul]
    exact (zpow_le_zpow_right₀ one_le_two hunit).trans hle
  have hpow : |x| / 2 ^ unitOf p z < 2 ^ precBits p := by
    rw [div_lt_iff₀ hpos, ← zpow_natCast, ← zpow_add₀ two_ne_zero, unitOf]
    refine hlt.trans_eq (congrArg _ ?_)
    ring
  have h1 : 0 < z.floorAt (unitOf p z) := by
    have : (0 : ℝ) < z.floorAt (unitOf p z) := by linarith
    exact_mod_cast this
  have h2 : z.floorAt (unitOf p z) < 2 ^ precBits p := by
    have := hlow.trans_lt hpow
    exact_mod_cast this
  have h3 := Bool.toNat_le (roundsUp rc (unitOf p z) z)
  unfold roundAt
  omega

/-- The position of the leading bit of `u` units, against a bound. -/
theorem log2_add_lt_iff {u : ℕ} (hu : 0 < u) (q k : ℤ) : (u.log2 : ℤ) + q < k ↔ (u : ℝ) * 2 ^ q < 2 ^ k := by
  have hle : (2 : ℝ) ^ u.log2 ≤ u := by exact_mod_cast Nat.log2_self_le hu.ne'
  have hlt : (u : ℝ) < 2 ^ (u.log2 + 1) := by exact_mod_cast Nat.lt_log2_self
  have hpos : (0 : ℝ) < 2 ^ q := by positivity
  refine ⟨fun h => ?_, fun h => ?_⟩
  · calc (u : ℝ) * 2 ^ q < 2 ^ (u.log2 + 1) * 2 ^ q := mul_lt_mul_of_pos_right hlt hpos
      _ = (2 : ℝ) ^ ((u.log2 : ℤ) + 1 + q) := by rw [zpow_add₀ two_ne_zero]; norm_cast
      _ ≤ 2 ^ k := zpow_le_zpow_right₀ one_le_two (by omega)
  · rw [← zpow_lt_zpow_iff_right₀ (one_lt_two (α := ℝ)), zpow_add₀ two_ne_zero, zpow_natCast]
    exact (mul_le_mul_of_nonneg_right hle hpos.le).trans_lt h

/-- A left-justified significand has 64 bits and the value of what was justified, a carry out of 64 bits included. -/
theorem leftJustify_spec {u : ℕ} (hu : 0 < u) (hle : u ≤ 2 ^ 64) :
    2 ^ 63 ≤ leftJustify u ∧ leftJustify u < 2 ^ 64 ∧ (leftJustify u : ℝ) * 2 ^ ((u.log2 : ℤ) - 63) = u := by
  rcases hle.lt_or_eq with hlt | rfl
  · have hlog : u.log2 < 64 := (Nat.log2_lt hu.ne').mpr hlt
    have h1 : 2 ^ u.log2 ≤ u := Nat.log2_self_le hu.ne'
    have h2 : u < 2 ^ (u.log2 + 1) := Nat.lt_log2_self
    obtain ⟨k, hk⟩ : ∃ k, 63 = u.log2 + k := ⟨63 - u.log2, by omega⟩
    have hj : leftJustify u = u * 2 ^ k := by
      rw [leftJustify, show (63 : ℤ) - (u.log2 : ℤ) = (k : ℕ) by omega, scale_natCast]
    rw [hj, show (u.log2 : ℤ) - 63 = -(k : ℤ) by omega]
    refine ⟨?_, ?_, ?_⟩
    · rw [hk, pow_add]
      exact Nat.mul_le_mul_right _ h1
    · rw [show 64 = u.log2 + 1 + k by omega, pow_add]
      exact Nat.mul_lt_mul_of_pos_right h2 (by positivity)
    · rw [zpow_neg, zpow_natCast]
      push_cast
      field_simp
  · have hj : leftJustify (2 ^ 64) = 2 ^ 63 := by
      rw [leftJustify, Nat.log2_two_pow, show (63 : ℤ) - (64 : ℕ) = -(1 : ℕ) by norm_num, scale_neg_natCast]
      norm_num
    rw [hj, Nat.log2_two_pow]
    norm_num

/-- L, G, R, S are the bits of the number (spec/41_operation_model.md R247). -/
theorem guardBits_lgrsAt {z : Exact} {x : ℝ} {q : ℤ} (h : standsFor z x) (hq : z.sticky = true → z.exp + 2 ≤ q) :
    guardBits q x (lgrsAt q z) := by
  have h0 := floorAt_eq_floor h (q := q) fun hs => by have := hq hs; omega
  have h1 := floorAt_eq_floor h (q := q - 1) fun hs => by have := hq hs; omega
  have h2 := floorAt_eq_floor h (q := q - 2) fun hs => by have := hq hs; omega
  have h3 := exactAt_iff h (q := q - 2) fun hs => by have := hq hs; omega
  unfold guardBits
  rw [← h0, ← h1, ← h2, Int.cast_natCast, Ne, ← h3]
  simp only [lgrsAt, BitVec.getLsbD_append]
  simp [Nat.odd_iff]

/-! ### The branches of `Finish` -/

/-- What the inexact condition leaves, whether or not it is signalled. -/
theorem finishInexact_spec (asr : Asr) (inexact os us : Bool) (info : TrapInfo) (r : Datum) :
    (finishInexact asr inexact os us info r).value = r ∧ (finishInexact asr inexact os us info r).os = os
    ∧ (finishInexact asr inexact os us info r).us = us ∧ (finishInexact asr inexact os us info r).ps = inexact
    ∧ ((finishInexact asr inexact os us info r).trap.isSome = true ↔ asr.pm = true ∧ inexact = true)
    ∧ ∀ found, (finishInexact asr inexact os us info r).trap = some found → found = info := by
  rcases finishInexact_cases asr inexact os us info r with ⟨hc, e⟩ | ⟨hc, e⟩ <;> rw [e]
  · refine ⟨rfl, rfl, rfl, rfl, ?_, fun found hf => by cases hf⟩
    rw [Bool.and_comm, Bool.and_eq_false_iff] at hc
    rcases hc with hc | hc <;> simp [hc]
  · rw [Bool.and_comm, Bool.and_eq_true] at hc
    exact ⟨rfl, rfl, rfl, rfl, by simp [hc], fun found hf => (Option.some.inj hf).symm⟩

section
variable (asr : Asr) {p : Prec} {rc : RoundMode} (forced : Bool) {z : Exact} {x : ℝ} {n : ℤ}

/-- A number has the rounding `n` in units `2^q`: then `n` is the rounded magnitude with its sign. -/
theorem eq_signedUnits (h : standsFor z x) (hn : roundsTo rc (unitOf p z) x n) :
    n = signedUnits z.neg (roundAt rc (unitOf p z) z) :=
  roundsTo_unique hn (roundAt_roundsTo rc h fun hs => by have := h.exp_lt_unitOf p hs; omega)

/-- The position of the leading bit after rounding, against a bound. -/
theorem roundedTop_lt_iff (h : standsFor z x) (hx : x ≠ 0) (hn : roundsTo rc (unitOf p z) x n) (k : ℤ) :
    ((roundAt rc (unitOf p z) z).log2 : ℤ) + unitOf p z < k ↔ |(n : ℝ)| * 2 ^ unitOf p z < 2 ^ k := by
  rw [eq_signedUnits h hn, abs_signedUnits, log2_add_lt_iff (roundAt_unitOf_bounds h hx p rc).1]

/-- In range `Finish` delivers the rounded magnitude. -/
theorem finish_inRange (h : standsFor z x) (hx : x ≠ 0) (hn : roundsTo rc (unitOf p z) x n)
    (hlt : |(n : ℝ)| * 2 ^ unitOf p z < 2 ^ (precEmax p + 1))
    (hge : (2 : ℝ) ^ precEmin p ≤ |x| ∨ (2 : ℝ) ^ precEmin p ≤ |(n : ℝ)| * 2 ^ unitOf p z) :
    finish asr p rc forced z = finishInexact asr (!z.exactAt (unitOf p z) || forced) false false
      (.inexact (.finite z.neg (roundAt rc (unitOf p z) z) (unitOf p z)) p false (some (lgrsAt (unitOf p z) z)))
      (.finite z.neg (roundAt rc (unitOf p z) z) (unitOf p z)) := by
  have htop := (roundedTop_lt_iff h hx hn _).mpr hlt
  have hlow : precEmin p ≤ z.top ∨ precEmin p ≤ ((roundAt rc (unitOf p z) z).log2 : ℤ) + unitOf p z := by
    refine hge.imp (fun hge => ?_) fun hge => ?_
    · exact Int.lt_add_one_iff.mp ((zpow_lt_zpow_iff_right₀ one_lt_two).mp (hge.trans_lt (h.leadingBit_top hx).2))
    · rw [← not_lt, roundedTop_lt_iff h hx hn]
      exact not_lt.mpr hge
  rcases finish_cases asr p rc forced z (.inl (h.mant_ne_zero hx)) with
    ⟨h1, -⟩ | ⟨h1, -⟩ | ⟨-, h1, h2, -⟩ | ⟨-, h1, h2, -⟩ | ⟨-, -, e⟩
  · omega
  · omega
  · omega
  · omega
  · exact e

/-- Beyond the range it overflows. -/
theorem finish_overflow (h : standsFor z x) (hx : x ≠ 0) (hn : roundsTo rc (unitOf p z) x n)
    (hge : (2 : ℝ) ^ (precEmax p + 1) ≤ |(n : ℝ)| * 2 ^ unitOf p z) :
    (asr.om = true ∧ finish asr p rc forced z = ⟨true, false, false, some (.rounded z.neg
        (((roundAt rc (unitOf p z) z).log2 : ℤ) + unitOf p z) (leftJustify (roundAt rc (unitOf p z) z))
        (lgrsAt (unitOf p z) z)), .zero z.neg⟩)
    ∨ (asr.om = false ∧ finish asr p rc forced z = finishInexact asr true true false
        (.inexact (overflowValue p rc z.neg) p false (some (lgrsAt (unitOf p z) z))) (overflowValue p rc z.neg)) := by
  have htop := mt (roundedTop_lt_iff h hx hn _).mp (not_lt.mpr hge)
  rcases finish_cases asr p rc forced z (.inl (h.mant_ne_zero hx)) with
    ⟨-, hm, e⟩ | ⟨-, hm, e⟩ | ⟨h1, -⟩ | ⟨h1, -⟩ | ⟨h1, -⟩
  · exact .inl ⟨hm, e⟩
  · exact .inr ⟨hm, e⟩
  · omega
  · omega
  · omega

/-- Below the range it underflows; what is delivered when that is not signalled is rounded once, to the denormalized
grid. -/
theorem finish_underflow (h : standsFor z x) (hx : x ≠ 0) (hn : roundsTo rc (unitOf p z) x n)
    (hlt : |x| < (2 : ℝ) ^ precEmin p) (hlt' : |(n : ℝ)| * 2 ^ unitOf p z < 2 ^ precEmin p) :
    (asr.um = true ∧ finish asr p rc forced z = ⟨false, true, false, some (.rounded z.neg
        (((roundAt rc (unitOf p z) z).log2 : ℤ) + unitOf p z) (leftJustify (roundAt rc (unitOf p z) z))
        (lgrsAt (unitOf p z) z)), .zero z.neg⟩)
    ∨ (asr.um = false ∧ finish asr p rc forced z = finishInexact asr (!z.exactAt (precLeast p) || forced) false
        (!z.exactAt (precLeast p)) (.inexact (datumOf z.neg (roundAt rc (precLeast p) z) (precLeast p)) p
          (!z.exactAt (precLeast p)) (some (lgrsAt (precLeast p) z)))
        (datumOf z.neg (roundAt rc (precLeast p) z) (precLeast p))) := by
  have htop := (roundedTop_lt_iff h hx hn _).mpr hlt'
  have hz := h.top_lt hx hlt
  have hrange : precEmin p ≤ precEmax p := by cases p <;> decide
  rcases finish_cases asr p rc forced z (.inl (h.mant_ne_zero hx)) with
    ⟨h1, -⟩ | ⟨h1, -⟩ | ⟨-, -, -, hm, e⟩ | ⟨-, -, -, hm, e⟩ | ⟨-, h1, -⟩
  · omega
  · omega
  · exact .inl ⟨hm, e⟩
  · exact .inr ⟨hm, e⟩
  · omega

/-- The handler of a signalled overflow or underflow finds the rounded magnitude, left-justified, at its true exponent
(spec/60_exceptions.md R417). -/
theorem rounded_found (h : standsFor z x) (hx : x ≠ 0) (hn : roundsTo rc (unitOf p z) x n) :
    2 ^ 63 ≤ leftJustify (roundAt rc (unitOf p z) z) ∧ leftJustify (roundAt rc (unitOf p z) z) < 2 ^ 64
    ∧ guardBits (unitOf p z) x (lgrsAt (unitOf p z) z)
    ∧ (leftJustify (roundAt rc (unitOf p z) z) : ℝ)
        * 2 ^ (((roundAt rc (unitOf p z) z).log2 : ℤ) + unitOf p z - 63) = |(n : ℝ)| * 2 ^ unitOf p z := by
  obtain ⟨hpos, hle⟩ := roundAt_unitOf_bounds h hx p rc
  have h64 : 2 ^ precBits p ≤ 2 ^ 64 := Nat.pow_le_pow_right (by decide) (precBits_bounds p).2
  obtain ⟨hlow, hhigh, hvalue⟩ := leftJustify_spec hpos (hle.trans h64)
  refine ⟨hlow, hhigh, guardBits_lgrsAt h fun hs => (h.exp_lt_unitOf p hs).le, ?_⟩
  rw [eq_signedUnits h hn, abs_signedUnits, add_sub_right_comm, zpow_add₀ two_ne_zero, ← mul_assoc, hvalue]

/-- The inexact condition exists when it is forced or the rounding differs from the number. -/
theorem inexact_iff {q : ℤ} {m : ℤ} (h : standsFor z x) (hq : z.sticky = true → z.exp ≤ q) (hm : roundsTo rc q x m) :
    (!z.exactAt q || forced) = true ↔ forced = true ∨ (m : ℝ) * 2 ^ q ≠ x := by
  rw [Bool.or_eq_true, Bool.not_eq_true', ← Bool.not_eq_true, exactAt_iff_eq h hq hm, or_comm]

/-- A magnitude with its sign is a datum of that value. -/
theorem datumReal_finite (neg : Bool) (u : ℕ) (q : ℤ) :
    datumReal (.finite neg u q) = (signedUnits neg u : ℤ) * 2 ^ q := by
  rw [datumReal, signedUnits_cast]

/-- Rounded to 0 it is a zero, which keeps the sign. -/
theorem datumOf_spec (neg : Bool) (u : ℕ) (q : ℤ) :
    datumReal (datumOf neg u q) = (signedUnits neg u : ℤ) * 2 ^ q ∧ (datumOf neg u q).sign = neg := by
  unfold datumOf
  split
  · next h0 => exact ⟨by simp [datumReal, h0], rfl⟩
  · exact ⟨datumReal_finite neg u q, rfl⟩

/-- What a masked overflow delivers, in one line of R242. -/
theorem overflowValue_eq (p : Prec) (rc : RoundMode) (neg : Bool) :
    overflowValue p rc neg =
      if rc = .nearest ∨ (rc = .towardPlus ∧ neg = false) ∨ (rc = .towardMinus ∧ neg = true) then .infinity neg
      else .finite neg (2 ^ precBits p - 1) (precEmax p - precBits p + 1) := by
  cases rc <;> cases neg <;> rfl

end

end Sys2Proof.Machine
end

section
/-! The obligations of `Finish`: O45, O46 and O47. -/

open Sys2Proof Sys2Proof.Machine

/-- Settles O45: `finish_inRange`, its parts read against the real number. -/
theorem finishInRange : Obligations.FinishInRange := by
  intro asr p rc forced z x E n h hx hE hn hlt hge
  rw [h.unitOf_eq hx hE p] at *
  have hq : z.sticky = true → z.exp + 2 < unitOf p z := h.exp_lt_unitOf p
  have hiff := inexact_iff forced h (fun hs => by have := hq hs; omega) hn
  rw [finish_inRange asr forced h hx hn hlt hge]
  obtain ⟨hvalue, hos, hus, hps, htrap, hinfo⟩ := finishInexact_spec asr (!z.exactAt (unitOf p z) || forced) false false
    (.inexact (.finite z.neg (roundAt rc (unitOf p z) z) (unitOf p z)) p false (some (lgrsAt (unitOf p z) z)))
    (.finite z.neg (roundAt rc (unitOf p z) z) (unitOf p z))
  rw [hvalue, hos, hus, hps, htrap, hiff]
  refine ⟨?_, rfl, rfl, Iff.rfl, Iff.rfl, fun info hi => ⟨_, hinfo info hi, guardBits_lgrsAt h fun hs => (hq hs).le⟩⟩
  rw [datumReal_finite, ← eq_signedUnits h hn]

/-- Settles O46: `finish_overflow`, signalled and masked. -/
theorem finishOverflow : Obligations.FinishOverflow := by
  intro asr p rc forced z x E n h hx hE hn hge
  rw [h.unitOf_eq hx hE p] at *
  have hsign := h.neg_eq hx
  rcases finish_overflow asr forced h hx hn hge with ⟨hm, e⟩ | ⟨hm, e⟩ <;> rw [e]
  · refine ⟨rfl, rfl, fun _ => ⟨rfl, _, _, _, by rw [hsign], rounded_found h hx hn⟩, fun hn => by simp [hm] at hn⟩
  · obtain ⟨hvalue, hos, hus, hps, htrap, hinfo⟩ := finishInexact_spec asr true true false
      (.inexact (overflowValue p rc z.neg) p false (some (lgrsAt (unitOf p z) z))) (overflowValue p rc z.neg)
    rw [hvalue, hos, hus, hps, htrap]
    refine ⟨rfl, rfl, fun hn => by simp [hm] at hn, fun _ => ⟨rfl, by simp, fun info hi => ⟨_, hinfo info hi,
      guardBits_lgrsAt h fun hs => (h.exp_lt_unitOf p hs).le⟩, ?_⟩⟩
    have hpos : z.neg = false ↔ 0 < x := by rw [hsign, decide_eq_false_iff_not, not_lt, hx.symm.le_iff_lt]
    simp only [overflowValue_eq, hpos, h.2 hx]
    rw [hsign]

/-- Settles O47: `finish_underflow`, signalled and masked. -/
theorem finishUnderflow : Obligations.FinishUnderflow := by
  intro asr p rc forced z x E n m h hx hE hn hlt hlt' hm
  rw [h.unitOf_eq hx hE p] at *
  have hsign := h.neg_eq hx
  rcases finish_underflow asr forced h hx hn hlt hlt' with ⟨hum, e⟩ | ⟨hum, e⟩ <;> rw [e]
  · exact ⟨rfl, fun _ => ⟨rfl, rfl, _, _, _, by rw [hsign], rounded_found h hx hn⟩, fun hn => by simp [hum] at hn⟩
  · rw [show precEmin p - precBits p + 1 = precLeast p from rfl] at hm ⊢
    have hq : z.sticky = true → z.exp + 2 < precLeast p := fun hs => by
      have hunit := h.exp_lt_unitOf p hs
      have htop := h.top_lt hx hlt
      simp only [unitOf, precLeast] at hunit ⊢
      omega
    have hlossy : (!z.exactAt (precLeast p)) = true ↔ (m : ℝ) * 2 ^ precLeast p ≠ x := by
      rw [Bool.not_eq_true', ← Bool.not_eq_true, exactAt_iff_eq h (fun hs => by have := hq hs; omega) hm]
    have hiff := inexact_iff forced h (fun hs => by have := hq hs; omega) hm
    have hround := roundsTo_unique hm (roundAt_roundsTo rc h fun hs => by have := hq hs; omega)
    obtain ⟨hreal, hdsign⟩ := datumOf_spec z.neg (roundAt rc (precLeast p) z) (precLeast p)
    obtain ⟨hvalue, hos, hus, hps, htrap, hinfo⟩ := finishInexact_spec asr (!z.exactAt (precLeast p) || forced) false
      (!z.exactAt (precLeast p)) (.inexact (datumOf z.neg (roundAt rc (precLeast p) z) (precLeast p)) p
        (!z.exactAt (precLeast p)) (some (lgrsAt (precLeast p) z)))
      (datumOf z.neg (roundAt rc (precLeast p) z) (precLeast p))
    rw [hvalue, hos, hus, hps, htrap, hiff, hreal, ← hround, hdsign]
    exact ⟨rfl, fun hn => by simp [hum] at hn, fun _ => ⟨rfl, hsign, hlossy, Iff.rfl, Iff.rfl, fun info hi =>
      ⟨_, hinfo info hi, guardBits_lgrsAt h fun hs => (hq hs).le⟩⟩⟩
end

section
/-! The exact sum, product and quotient of two numbers, against the real numbers (spec/41_operation_model.md R258,
spec/42_arithmetic.md R282 to R285). -/

namespace Sys2Proof.Machine

/-! ### What an exact operation stands for -/

/-- A magnitude given exactly. -/
theorem standsFor.abs_eq {z : Exact} {x : ℝ} (h : standsFor z x) (hs : z.sticky = false) : |x| = z.mant * 2 ^ z.exp := by
  obtain ⟨hm, -⟩ := h
  rwa [hs, if_neg Bool.false_ne_true] at hm

/-- The signed integer in a unit that divides the magnitude. -/
theorem standsFor.toIntAt_mul {z : Exact} {x : ℝ} {e : ℤ} (h : standsFor z x) (hs : z.sticky = false) (he : e ≤ z.exp) :
    (z.toIntAt e : ℝ) * 2 ^ e = x := by
  have hexact := (exactAt_iff h (q := e) (by simp [hs])).mp (by rw [exactAt_of_le he, hs]; rfl)
  have hint : (z.toIntAt e : ℝ) = signFactor z.neg * z.floorAt e := signedUnits_cast z.neg (z.floorAt e)
  rw [hint, hexact, mul_assoc, div_mul_cancel₀ _ (by positivity), ← h.eq_signFactor_mul]

/-- An integer of units stands for its value. -/
theorem standsFor_ofInt (m e : ℤ) : standsFor (Exact.ofInt m e) ((m : ℝ) * 2 ^ e) := by
  have hpos : (0 : ℝ) < 2 ^ e := by positivity
  refine ⟨?_, fun _ => ?_⟩
  · simp [Exact.ofInt, magnitude, abs_mul, abs_of_pos hpos, Nat.cast_natAbs]
  · simp only [Exact.ofInt, decide_eq_true_iff]
    constructor
    · exact fun hm => mul_neg_of_neg_of_pos (Int.cast_lt_zero.mpr hm) hpos
    · exact fun hm => Int.cast_lt_zero.mp (neg_of_mul_neg_left hm hpos.le)

/-- The signs of two numbers, combined, are the sign of their product. -/
theorem bne_neg_iff {z w : Exact} {x y : ℝ} (hz : standsFor z x) (hw : standsFor w y) (h : x * y ≠ 0) :
    (z.neg != w.neg) = true ↔ x * y < 0 := by
  obtain ⟨hx, hy⟩ := mul_ne_zero_iff.mp h
  rw [hz.neg_eq hx, hw.neg_eq hy, bne_iff_ne, mul_neg_iff]
  rcases lt_or_gt_of_ne hx with h1 | h1 <;> rcases lt_or_gt_of_ne hy with h2 | h2 <;>
    simp [h1, h2, h1.not_gt, h2.not_gt]

/-- The exact product stands for the product. -/
theorem standsFor_exactProduct {z w : Exact} {x y : ℝ} (hz : standsFor z x) (hw : standsFor w y) (hzs : z.sticky = false)
    (hws : w.sticky = false) : standsFor (exactProduct z w) (x * y) := by
  refine ⟨?_, bne_neg_iff hz hw⟩
  rw [exactProduct, if_neg Bool.false_ne_true, magnitude, abs_mul, hz.abs_eq hzs, hw.abs_eq hws, Nat.cast_mul,
    zpow_add₀ two_ne_zero]
  ring

/-- The integer quotient is the real one, or its whole part when there is a remainder. -/
theorem natDiv_bounds (n : ℕ) {d : ℕ} (hd : 0 < d) :
    (n % d = 0 → (n : ℝ) / d = (n / d : ℕ))
    ∧ (n % d ≠ 0 → ((n / d : ℕ) : ℝ) < (n : ℝ) / d ∧ (n : ℝ) / d < (n / d : ℕ) + 1) := by
  have hpos : (0 : ℝ) < d := Nat.cast_pos.mpr hd
  have hdiv := Nat.div_add_mod n d
  have hmod := Nat.mod_lt n hd
  refine ⟨fun h0 => (Nat.cast_div (Nat.dvd_of_mod_eq_zero h0) hpos.ne').symm, fun h0 => ⟨?_, ?_⟩⟩
  · rw [lt_div_iff₀ hpos]
    norm_cast
    rw [mul_comm]
    omega
  · rw [div_lt_iff₀ hpos]
    norm_cast
    rw [mul_comm, mul_add_one]
    omega

/-- The exact quotient stands for the quotient, its leading bits enough for every rounding. -/
theorem standsFor_exactQuotient {z w : Exact} {x y : ℝ} (hz : standsFor z x) (hw : standsFor w y) (hzs : z.sticky = false)
    (hws : w.sticky = false) (hz0 : 0 < z.mant) (hw0 : 0 < w.mant) (hlt : w.mant < 2 ^ 64) :
    standsFor (exactQuotient z w) (x / y) := by
  have hpos : (0 : ℝ) < 2 ^ (z.exp - w.exp - 140) := by positivity
  have habs : |x / y| = ((z.mant <<< 140 : ℕ) : ℝ) / w.mant * 2 ^ (z.exp - w.exp - 140) := by
    rw [abs_div, hz.abs_eq hzs, hw.abs_eq hws, Nat.shiftLeft_eq, zpow_sub₀ two_ne_zero, zpow_sub₀ two_ne_zero]
    push_cast
    field_simp
    norm_num
  have hbits : 2 ^ 68 * w.mant ≤ z.mant <<< 140 := by
    rw [Nat.shiftLeft_eq]
    calc 2 ^ 68 * w.mant ≤ 2 ^ 68 * 2 ^ 64 := Nat.mul_le_mul_left _ hlt.le
      _ ≤ 1 * 2 ^ 140 := by norm_num
      _ ≤ z.mant * 2 ^ 140 := Nat.mul_le_mul_right _ hz0
  refine ⟨?_, fun h0 => ?_⟩
  · simp only [exactQuotient, magnitude, bne_iff_ne]
    rw [habs]
    generalize z.mant <<< 140 = n at hbits ⊢
    obtain ⟨hexact, hbetween⟩ := natDiv_bounds n hw0
    split
    · next hs =>
      obtain ⟨hlow, hhigh⟩ := hbetween hs
      exact ⟨(Nat.le_div_iff_mul_le hw0).mpr hbits, mul_lt_mul_of_pos_right hlow hpos,
        mul_lt_mul_of_pos_right hhigh hpos⟩
    · next hs => rw [hexact (not_not.mp hs)]
  · have hy : y ≠ 0 := fun hy => h0 (by rw [hy, div_zero])
    have hmul : x * y ≠ 0 := mul_ne_zero (fun hx => h0 (by rw [hx, zero_div])) hy
    rw [show (exactQuotient z w).neg = (z.neg != w.neg) from rfl, bne_neg_iff hz hw hmul, mul_neg_iff, div_neg_iff]

/-! ### The instructions -/

/-- A number has a significand that is not 0, of at most 64 bits. -/
theorem isNumber.mant_bounds {v : Extended} (h : isNumber v) : 0 < (extValue v).mant ∧ (extValue v).mant < 2 ^ 64 := by
  refine ⟨Nat.pos_of_ne_zero fun h0 => ?_, (v.extractLsb' 0 64).isLt⟩
  change extSignificand v = 0 at h0
  unfold isNumber classify at h
  rw [if_pos h0, if_pos h0] at h
  split at h
  · cases h
  · split at h <;> cases h

/-- An operation that yields `deliverExact` finishes the number its argument stands for. -/
theorem finishesWith_of_operation {i : Instr} {s : State} {r : OpResult} {z : Exact} {x : ℝ}
    (hop : operationOf i s = some r) (hk : keepsDr i = true) (h : r = deliverExact i.operands s z) (hz : standsFor z x) :
    finishesWith i s x := by
  refine ⟨z, hz, ?_⟩
  rw [exec_operation hop, hk, h]
  rfl

section
variable (o : Operands) (s : State) {a b : Extended}

/-- Numbers reach the last row of every table. -/
theorem operations_numbers (ha : isNumber a) (hb : isNumber b) :
    addOperation o s a b = sumOperation o s (extValue a) (extValue b)
    ∧ mulOperation o s a b = deliverExact o s (exactProduct (extValue a) (extValue b))
    ∧ divOperation o s a b = deliverExact o s (exactQuotient (extValue b) (extValue a)) := by
  have haz := ha.isZero_eq
  have hbz := hb.isZero_eq
  unfold isNumber at ha hb
  simp [addOperation, mulOperation, divOperation, ha, hb, haz, hbz]

end

/-- The integer of `exactSum` is the sum of the two values in its unit. -/
theorem exactSum_value (a b : Extended) :
    ((exactSum (extValue a) (extValue b)).1 : ℝ) * 2 ^ (exactSum (extValue a) (extValue b)).2 = extReal a + extReal b := by
  simp only [exactSum]
  push_cast
  rw [add_mul, (standsFor_extValue a).toIntAt_mul rfl (min_le_left _ _),
    (standsFor_extValue b).toIntAt_mul rfl (min_le_right _ _)]

/-- An addition of numbers finishes their sum, or delivers the zero of the mode (the spec's decision D29, log 22). -/
theorem adds.numbers {i : Instr} {s : State} {a b : Extended} (h : adds i s a b) (ha : isNumber a) (hb : isNumber b) :
    (extReal a + extReal b ≠ 0 → finishesWith i s (extReal a + extReal b))
    ∧ (extReal a + extReal b = 0 → deliversOnly i s (.zero (decide (roundMode i.operands s = .towardMinus)))) := by
  obtain ⟨hop, hk⟩ := h
  obtain ⟨hsum, -, -⟩ := operations_numbers i.operands s ha hb
  have hvalue := exactSum_value a b
  have hzero : (exactSum (extValue a) (extValue b)).1 = 0 ↔ extReal a + extReal b = 0 := by
    rw [← hvalue, mul_eq_zero, or_iff_left (by positivity), Int.cast_eq_zero]
  refine ⟨fun hne => finishesWith_of_operation hop hk (hsum.trans (if_neg (mt hzero.mp hne))) ?_, fun h0 => ?_⟩
  · rw [← hvalue]
    exact standsFor_ofInt _ _
  · refine deliversOnly_of_operation hop hk (hsum.trans ((if_pos (hzero.mpr h0)).trans ?_))
    rw [zeroSumSign, beq_eq_decide]

end Sys2Proof.Machine
end

section
/-! The obligation of exact arithmetic: O38. -/

open Sys2Proof Sys2Proof.Machine

/-- Settles O38: the exact sum, product and quotient stand for the real ones; SUB adds the complemented Op1. -/
theorem arithmeticOfNumbers : Obligations.ArithmeticOfNumbers := by
  intro o s ha hb
  obtain ⟨-, hmul, hdiv⟩ := operations_numbers o s ha hb
  obtain ⟨hsum, hsum0⟩ := (adds_add o s).numbers ha hb
  obtain ⟨hdiff, hdiff0⟩ := (adds_sub o s).numbers (by rwa [isNumber, extWithSign_classify]) hb
  rw [extReal_flipSign, neg_add_eq_sub] at hdiff hdiff0
  obtain ⟨ha0, halt⟩ := ha.mant_bounds
  obtain ⟨hb0, -⟩ := hb.mant_bounds
  exact ⟨hsum, hsum0, hdiff, hdiff0,
    finishesWith_of_operation (i := .mul o) rfl rfl hmul
      (standsFor_exactProduct (standsFor_extValue _) (standsFor_extValue _) rfl rfl),
    finishesWith_of_operation (i := .div o) rfl rfl hdiv
      (standsFor_exactQuotient (standsFor_extValue _) (standsFor_extValue _) rfl rfl hb0 ha0 halt)⟩
end

section
/-! Encoding a result (spec/40_data_formats.md R182 to R191, R211): the fields of an encoded datum, and that a number its
precision represents keeps its value. -/

namespace Sys2Proof.Machine

/-! ### Packed fields -/

/-- The fields of a sign, an exponent field and a fraction side by side. -/
theorem packed_fields {k m : ℕ} (neg : Bool) (e : BitVec k) (f : BitVec m) :
    (BitVec.ofBool neg ++ e ++ f).getLsbD (m + k) = neg ∧ (BitVec.ofBool neg ++ e ++ f).extractLsb' m k = e
    ∧ (BitVec.ofBool neg ++ e ++ f).extractLsb' 0 m = f := by
  refine ⟨?_, ?_, BitVec.extractLsb'_append_eq_right⟩
  · rw [BitVec.getLsbD_append, if_neg (by omega), BitVec.getLsbD_append, if_neg (by omega)]
    simp
  · rw [BitVec.extractLsb'_append_eq_of_le (le_refl m), Nat.sub_self]
    exact BitVec.extractLsb'_append_eq_right

/-! ### NaNs -/

/-- A narrowed NaN fraction keeps its most significant bit (spec/41_operation_model.md R236). -/
theorem narrowFraction_getLsbD (p : Prec) {f : BitVec 63} (hf : f.getLsbD 62 = true) :
    (narrowFraction p f).getLsbD 62 = true := by
  have hone (g : BitVec 62) : (1#1 ++ g).getLsbD 62 = true := by
    rw [BitVec.getLsbD_append, if_neg (by decide)]
    rfl
  cases p
  case extended => exact hf
  all_goals
    simp only [narrowFraction]
    split
    · exact hf
    · exact hone _

/-- The maximum exponent field and bit 62 make a nontrapping NaN, whatever J is (spec/40_data_formats.md R190). -/
theorem classify_quietNan {v : Extended} (he : extExponent v = 32767) (hq : v.getLsbD 62 = true) :
    classify v = .quietNan := by
  have hbit : (extSignificand v).testBit 62 = true := (testBit_lowField v (len := 64) (by decide)).trans hq
  have hsig : extSignificand v ≠ 0 := fun h0 => by simp [h0] at hbit
  rw [classify, if_pos he, if_neg hsig, if_pos hq]

/-- A double-extended NaN whose fraction begins with 1 is a nontrapping one of its sign. -/
theorem encodeExtended_nan (neg j : Bool) {f : BitVec 63} (hf : f.getLsbD 62 = true) :
    classify (encodeExtended (.nan neg j f)) = .quietNan ∧ extSign (encodeExtended (.nan neg j f)) = neg := by
  obtain ⟨hsign, hexp, -⟩ := packed_fields neg 0x7FFF#15 (BitVec.ofBool j ++ f)
  have hfields : encodeExtended (.nan neg j f) = BitVec.ofBool neg ++ 0x7FFF#15 ++ (BitVec.ofBool j ++ f) :=
    BitVec.append_assoc ..
  have hbit : (encodeExtended (.nan neg j f)).getLsbD 62 = true := by
    rw [encodeExtended, BitVec.getLsbD_append, if_pos (by decide), hf]
  refine ⟨classify_quietNan ?_ hbit, ?_⟩ <;> rw [hfields]
  · exact congrArg BitVec.toNat hexp
  · exact hsign

/-- A NaN of a narrower format whose fraction begins with 1 is widened to a nontrapping one. -/
theorem widen_quietNan {bias emax fbits : ℕ} (hfit : Fits bias emax fbits) (neg : Bool) {f : BitVec fbits}
    (hf : f.getLsbD (fbits - 1) = true) : classify (widen bias emax fbits neg emax f.toNat) = .quietNan := by
  have hbit : f.toNat.testBit (fbits - 1) = true := hf
  have hne : f.toNat ≠ 0 := fun h0 => by simp [h0] at hbit
  rw [(widen_special hfit neg f.isLt).2, if_neg hne, if_pos hbit]

/-- So is an encoded single-precision NaN, and it keeps its sign. -/
theorem encodeSingle_nan (neg j : Bool) {f : BitVec 63} (hf : f.getLsbD 62 = true) :
    classify (widenSingle (encodeSingle (.nan neg j f))) = .quietNan
    ∧ (encodeSingle (.nan neg j f)).getLsbD 31 = neg := by
  obtain ⟨hsign, hexp, hfrac⟩ := packed_fields neg 0xFF#8 ((narrowFraction .single f).extractLsb' 40 23)
  have hbit : ((narrowFraction .single f).extractLsb' 40 23).getLsbD 22 = true := by
    rw [BitVec.getLsbD_extractLsb', narrowFraction_getLsbD .single hf]
    rfl
  rw [widenSingle, encodeSingle]
  exact ⟨by rw [hexp, hfrac]; exact widen_quietNan fits_single _ hbit, hsign⟩

/-- So is an encoded double-precision NaN. -/
theorem encodeDouble_nan (neg j : Bool) {f : BitVec 63} (hf : f.getLsbD 62 = true) :
    classify (widenDouble (encodeDouble (.nan neg j f))) = .quietNan
    ∧ (encodeDouble (.nan neg j f)).getLsbD 63 = neg := by
  obtain ⟨hsign, hexp, hfrac⟩ := packed_fields neg 0x7FF#11 ((narrowFraction .double f).extractLsb' 11 52)
  have hbit : ((narrowFraction .double f).extractLsb' 11 52).getLsbD 51 = true := by
    rw [BitVec.getLsbD_extractLsb', narrowFraction_getLsbD .double hf]
    rfl
  rw [widenDouble, encodeDouble]
  exact ⟨by rw [hexp, hfrac]; exact widen_quietNan fits_double _ hbit, hsign⟩

/-! ### Infinities and zeros -/

/-- A register receives an infinity, a zero and the generated NaN in one pattern, whatever its precision. -/
theorem encodeRegister_special (p : Prec) (neg : Bool) :
    encodeRegister p (.infinity neg) = packExt neg 32767 0 ∧ encodeRegister p (.zero neg) = packExt neg 0 0
    ∧ encodeRegister p .generatedNan = 0x7FFFFFFFFFFFFFFFFFFF := ⟨rfl, rfl, rfl⟩

/-- The class of a packed zero. -/
theorem classify_packExt_zero (neg : Bool) : classify (packExt neg 0 0) = .zero := by
  obtain ⟨-, hx, hm, -⟩ := packExt_fields neg (e := 0) (sig := 0) (by decide) (by decide)
  simp [classify, hx, hm]

/-- An encoded infinity is widened to that pattern of its sign. -/
theorem widen_encoded_infinity (neg : Bool) :
    widenSingle (encodeSingle (.infinity neg)) = packExt neg 32767 0
    ∧ widenDouble (encodeDouble (.infinity neg)) = packExt neg 32767 0 := by
  obtain ⟨hsign, hexp, hfrac⟩ := packed_fields neg 0xFF#8 0#23
  obtain ⟨hsign', hexp', hfrac'⟩ := packed_fields neg 0x7FF#11 0#52
  rw [widenSingle, encodeSingle, widenDouble, encodeDouble, hexp, hfrac, hexp', hfrac']
  exact ⟨congrArg (packExt · 32767 0) hsign, congrArg (packExt · 32767 0) hsign'⟩

/-- So is an encoded zero. -/
theorem widen_encoded_zero (neg : Bool) :
    widenSingle (encodeSingle (.zero neg)) = packExt neg 0 0
    ∧ widenDouble (encodeDouble (.zero neg)) = packExt neg 0 0 := by
  obtain ⟨hsign, hexp, hfrac⟩ := packed_fields neg 0#8 0#23
  obtain ⟨hsign', hexp', hfrac'⟩ := packed_fields neg 0#11 0#52
  rw [widenSingle, encodeSingle, widenDouble, encodeDouble, hexp, hfrac, hexp', hfrac']
  exact ⟨congrArg (packExt · 0 0) hsign, congrArg (packExt · 0 0) hsign'⟩

/-! ### Numbers -/

/-- The number `sig * 2^lsb` is one the precision represents (spec/40_data_formats.md R210). -/
def heldBy (p : Prec) (sig : ℕ) (lsb : ℤ) : Prop :=
  ∃ (m : ℕ) (e : ℤ), (sig : ℝ) * (2 : ℝ) ^ lsb = m * (2 : ℝ) ^ e ∧ m < 2 ^ precBits p ∧ precLeast p ≤ e
    ∧ (sig : ℝ) * (2 : ℝ) ^ lsb < (2 : ℝ) ^ (precEmax p + 1)

/-- Double-extended represents every number of the other precisions. -/
theorem heldBy.extended {p : Prec} {sig : ℕ} {lsb : ℤ} (h : heldBy p sig lsb) : heldBy .extended sig lsb := by
  obtain ⟨m, e, hvalue, hm, he, hlt⟩ := h
  have hbits : precBits p ≤ precBits .extended := by cases p <;> decide
  have hleast : precLeast .extended ≤ precLeast p := by cases p <;> decide
  have hmax : precEmax p + 1 ≤ precEmax .extended + 1 := by cases p <;> decide
  exact ⟨m, e, hvalue, hm.trans_le (Nat.pow_le_pow_right (by decide) hbits), hleast.trans he,
    hlt.trans_le (zpow_le_zpow_right₀ one_le_two hmax)⟩

/-- `scale` drops nothing of a multiple of the unit it goes to. -/
theorem scale_exact {sig n : ℕ} {lsb g : ℤ} (h : (sig : ℝ) * (2 : ℝ) ^ lsb = n * (2 : ℝ) ^ g) :
    scale sig (lsb - g) = n := by
  have hpos : (0 : ℝ) < 2 ^ g := by positivity
  have hnonneg : (0 : ℝ) ≤ sig * 2 ^ lsb := by positivity
  have hstands : standsFor ⟨false, sig, lsb, false⟩ ((sig : ℝ) * (2 : ℝ) ^ lsb) :=
    ⟨by simp [magnitude], fun _ => by simp [hnonneg]⟩
  have hfloor := floorAt_eq_floor hstands (q := g) (by simp)
  rw [abs_of_nonneg hnonneg, h, mul_div_cancel_right₀ _ hpos.ne', Int.floor_natCast] at hfloor
  exact_mod_cast hfloor

/-- A number that is not 0 has no zero significand, however it is written. -/
theorem pos_of_mul_zpow_eq {u v : ℕ} {q g : ℤ} (hu : 0 < u) (h : (u : ℝ) * (2 : ℝ) ^ q = v * (2 : ℝ) ^ g) : 0 < v := by
  refine Nat.pos_of_ne_zero fun hv => ?_
  rw [hv, Nat.cast_zero, zero_mul] at h
  exact absurd h (by positivity)

/-- The leading bit of one number has one position, however it is written. -/
theorem log2_add_eq {u v : ℕ} {q g : ℤ} (hu : 0 < u) (h : (u : ℝ) * (2 : ℝ) ^ q = v * (2 : ℝ) ^ g) :
    (u.log2 : ℤ) + q = v.log2 + g := by
  have hv := pos_of_mul_zpow_eq hu h
  have h1 := log2_add_lt_iff hu q (v.log2 + g + 1)
  have h2 := log2_add_lt_iff hv g (u.log2 + q + 1)
  rw [h, ← log2_add_lt_iff hv] at h1
  rw [← h, ← log2_add_lt_iff hu] at h2
  omega

/-- A number the precision represents is whole units in the last place, and whole units of the denormalized grid: brought
to either, it loses nothing. -/
theorem heldBy.scale_spec {p : Prec} {sig : ℕ} {lsb : ℤ} (h : heldBy p sig lsb) {g : ℤ}
    (hg : g = precLeast p ∨ g = (sig.log2 : ℤ) + lsb - precBits p + 1) (h0 : 0 < sig) :
    (sig : ℝ) * (2 : ℝ) ^ lsb = (scale sig (lsb - g) : ℕ) * (2 : ℝ) ^ g := by
  obtain ⟨m, e, hvalue, hm, he, -⟩ := h
  have htop : (sig.log2 : ℤ) + lsb < precBits p + e := by
    rw [log2_add_lt_iff h0, hvalue, zpow_add₀ two_ne_zero, zpow_natCast]
    exact mul_lt_mul_of_pos_right (by exact_mod_cast hm) (by positivity)
  obtain ⟨k, rfl⟩ := Int.le.dest (show g ≤ e by omega)
  have hunits : (sig : ℝ) * (2 : ℝ) ^ lsb = (m * 2 ^ k : ℕ) * (2 : ℝ) ^ g := by
    rw [hvalue, zpow_add₀ two_ne_zero, zpow_natCast]
    push_cast
    ring
  rw [scale_exact hunits, hunits]

/-- What `finiteFields` makes of a number the precision represents: exponent field 0 and a significand below the leading
bit, or a field that is not 0 and a significand of `P` bits (spec/40_data_formats.md R196, R211). -/
theorem finiteFields_spec {p : Prec} {sig : ℕ} {lsb : ℤ} (h0 : 0 < sig) (h : heldBy p sig lsb) :
    ∃ e n : ℕ, finiteFields p sig lsb = (e, n) ∧ 0 < n
      ∧ ((e = 0 ∧ n < 2 ^ (precBits p - 1) ∧ (sig : ℝ) * (2 : ℝ) ^ lsb = n * (2 : ℝ) ^ precLeast p)
        ∨ (0 < e ∧ (e : ℤ) ≤ 2 * precEmax p ∧ 2 ^ (precBits p - 1) ≤ n ∧ n < 2 ^ precBits p
          ∧ (sig : ℝ) * (2 : ℝ) ^ lsb = n * (2 : ℝ) ^ ((e : ℤ) - precEmax p - precBits p + 1))) := by
  have hrange : (sig.log2 : ℤ) + lsb < precEmax p + 1 := by
    obtain ⟨m, e, -, -, -, hlt⟩ := h
    exact (log2_add_lt_iff h0 lsb _).mpr hlt
  obtain ⟨hbits, -⟩ := precBits_bounds p
  unfold finiteFields
  by_cases htop : (sig.log2 : ℤ) + lsb < precEmin p
  · have hvalue := h.scale_spec (.inl rfl) h0
    have hpos := pos_of_mul_zpow_eq h0 hvalue
    have hlog := log2_add_eq h0 hvalue
    refine ⟨0, scale sig (lsb - precLeast p), if_pos htop, hpos, .inl ⟨rfl, ?_, hvalue⟩⟩
    rw [← Nat.log2_lt hpos.ne']
    rw [precLeast] at hlog ⊢
    omega
  · have hvalue := h.scale_spec (.inr rfl) h0
    have hpos := pos_of_mul_zpow_eq h0 hvalue
    have hlog := log2_add_eq h0 hvalue
    have hmin : precEmin p = 1 - precEmax p := rfl
    have hn : 2 ^ (precBits p - 1) ≤ scale sig (lsb - ((sig.log2 : ℤ) + lsb - precBits p + 1))
        ∧ scale sig (lsb - ((sig.log2 : ℤ) + lsb - precBits p + 1)) < 2 ^ (precBits p - 1 + 1) :=
      (Nat.log2_eq_iff hpos.ne').mp (by omega)
    rw [Nat.sub_add_cancel (by omega)] at hn
    refine ⟨((sig.log2 : ℤ) + lsb + precEmax p).toNat, scale sig (lsb - ((sig.log2 : ℤ) + lsb - precBits p + 1)),
      if_neg htop, hpos, .inr ⟨by omega, by omega, hn.1, hn.2, hvalue.trans ?_⟩⟩
    rw [Int.toNat_of_nonneg (by omega), add_sub_cancel_right]

/-- The value of a packed pattern of exponent field 0 (spec/40_data_formats.md R196). -/
theorem extReal_packExt_fieldZero (neg : Bool) {sig : ℕ} (hsig : sig < 2 ^ 64) :
    extReal (packExt neg 0 sig) = signFactor neg * (sig * (2 : ℝ) ^ (-16445 : ℤ)) := by
  obtain ⟨hs, hx, hm, -⟩ := packExt_fields neg (e := 0) (by decide) hsig
  unfold extSign at hs
  unfold extExponent at hx
  unfold extSignificand at hm
  have hmax : max ((0 : ℕ) : ℤ) 1 - 16383 = -16445 + 63 := by norm_num
  rw [extReal, hs, hx, hm, hmax, zpow_add₀ two_ne_zero]
  field_simp

/-- The double-extended encoding of a number that precision represents has its value, and is a number. -/
theorem encodeExtended_finite (neg : Bool) {sig : ℕ} {lsb : ℤ} (h0 : 0 < sig) (h : heldBy .extended sig lsb) :
    extReal (encodeExtended (.finite neg sig lsb)) = datumReal (.finite neg sig lsb)
    ∧ isNumber (encodeExtended (.finite neg sig lsb)) := by
  obtain ⟨e, n, hfields, hn, hcases⟩ := finiteFields_spec h0 h
  rw [encodeExtended, hfields, datumReal, mul_assoc]
  simp only [precBits, precEmax, precLeast, precEmin] at hcases
  rcases hcases with ⟨rfl, hlt, hvalue⟩ | ⟨he, hmax, -, hlt, hvalue⟩
  · have h64 : n < 2 ^ 64 := hlt.trans (by norm_num)
    rw [hvalue]
    exact ⟨extReal_packExt_fieldZero neg h64, isNumber_packExt neg (by norm_num) hn h64⟩
  · rw [hvalue]
    refine ⟨?_, isNumber_packExt neg (by omega) hn hlt⟩
    rw [extReal_packExt neg he (by omega) hlt]
    congr 3
    push_cast
    ring

/-- The fields of a number that a narrower precision represents have its value; the exponent field is below the maximum
one. -/
theorem fieldsReal_finiteFields {p : Prec} {bias fbits : ℕ} (hbias : precEmax p = bias) (hbits : precBits p = fbits + 1)
    (neg : Bool) {sig : ℕ} {lsb : ℤ} (h0 : 0 < sig) (h : heldBy p sig lsb) :
    ∃ e n : ℕ, finiteFields p sig lsb = (e, n) ∧ e ≤ 2 * bias
      ∧ fieldsReal bias fbits neg e (n % 2 ^ fbits) = datumReal (.finite neg sig lsb) := by
  obtain ⟨e, n, hfields, -, hcases⟩ := finiteFields_spec h0 h
  rw [precLeast, precEmin, hbias, hbits, Nat.add_sub_cancel] at hcases
  rw [datumReal, mul_assoc]
  refine ⟨e, n, hfields, ?_⟩
  rcases hcases with ⟨rfl, hlt, hvalue⟩ | ⟨he, hmax, hle, hlt, hvalue⟩
  · refine ⟨Nat.zero_le _, ?_⟩
    rw [hvalue, fieldsReal, if_pos rfl, Nat.mod_eq_of_lt hlt]
    congr 1
    push_cast
    rw [sub_add_eq_sub_sub, sub_add_cancel, zpow_sub₀ two_ne_zero (1 - (bias : ℤ))]
    ring
  · refine ⟨by omega, ?_⟩
    obtain ⟨f, rfl⟩ := Nat.exists_eq_add_of_le hle
    have hf : f < 2 ^ fbits := by
      rw [pow_succ] at hlt
      omega
    rw [hvalue, fieldsReal, if_neg he.ne', Nat.add_mod_left, Nat.mod_eq_of_lt hf]
    congr 1
    push_cast
    rw [sub_add_eq_sub_sub, sub_add_cancel, zpow_sub₀ two_ne_zero ((e : ℤ) - bias), zpow_natCast]
    field_simp

/-- The single-precision encoding of a number that precision represents has its value. -/
theorem encodeSingle_finite (neg : Bool) {sig : ℕ} {lsb : ℤ} (h0 : 0 < sig) (h : heldBy .single sig lsb) :
    singleReal (encodeSingle (.finite neg sig lsb)) = datumReal (.finite neg sig lsb)
    ∧ ((encodeSingle (.finite neg sig lsb)).extractLsb' 23 8).toNat ≠ 255 := by
  obtain ⟨e, n, hfields, he, hvalue⟩ := fieldsReal_finiteFields (p := .single) (bias := 127) (fbits := 23) rfl rfl neg h0 h
  obtain ⟨hsign, hexp, hfrac⟩ := packed_fields neg (BitVec.ofNat 8 e) (BitVec.ofNat 23 n)
  rw [singleReal_eq_fieldsReal, encodeSingle, hfields]
  dsimp only
  rw [hexp, hfrac, BitVec.toNat_ofNat, BitVec.toNat_ofNat, Nat.mod_eq_of_lt (by omega : e < 2 ^ 8), ← hvalue]
  exact ⟨congrArg (fieldsReal 127 23 · e (n % 2 ^ 23)) hsign, by omega⟩

/-- So has the double-precision encoding. -/
theorem encodeDouble_finite (neg : Bool) {sig : ℕ} {lsb : ℤ} (h0 : 0 < sig) (h : heldBy .double sig lsb) :
    doubleReal (encodeDouble (.finite neg sig lsb)) = datumReal (.finite neg sig lsb)
    ∧ ((encodeDouble (.finite neg sig lsb)).extractLsb' 52 11).toNat ≠ 2047 := by
  obtain ⟨e, n, hfields, he, hvalue⟩ := fieldsReal_finiteFields (p := .double) (bias := 1023) (fbits := 52) rfl rfl neg h0 h
  obtain ⟨hsign, hexp, hfrac⟩ := packed_fields neg (BitVec.ofNat 11 e) (BitVec.ofNat 52 n)
  rw [doubleReal_eq_fieldsReal, encodeDouble, hfields]
  dsimp only
  rw [hexp, hfrac, BitVec.toNat_ofNat, BitVec.toNat_ofNat, Nat.mod_eq_of_lt (by omega : e < 2 ^ 11), ← hvalue]
  exact ⟨congrArg (fieldsReal 1023 52 · e (n % 2 ^ 52)) hsign, by omega⟩

end Sys2Proof.Machine
end

section
/-! The obligation of the encodings: O49. -/

open Sys2Proof Sys2Proof.Machine

/-- Settles O49: NaNs keep their leading fraction bit, infinities and zeros have one pattern each, and the fields of a
number have its value. -/
theorem encodingKeepsValue : Obligations.EncodingKeepsValue := by
  refine ⟨fun p neg j f hf => ⟨encodeExtended_nan neg j (narrowFraction_getLsbD p hf), encodeSingle_nan neg j hf,
    encodeDouble_nan neg j hf⟩, fun p neg => ?_, rfl, rfl, fun p neg sig m lsb e h0 hvalue hm he hlt => ?_⟩
  · obtain ⟨hinf, hzero, hnan⟩ := encodeRegister_special p neg
    obtain ⟨hinf1, hinf2⟩ := widen_encoded_infinity neg
    obtain ⟨hzero1, hzero2⟩ := widen_encoded_zero neg
    rw [hinf, hzero]
    exact ⟨⟨classify_packExt_max neg (by decide), (packExt_fields neg (by decide) (by decide)).1⟩, hinf1, hinf2,
      ⟨classify_packExt_zero neg, (packExt_fields neg (by decide) (by decide)).1⟩, hzero1, hzero2, hnan⟩
  · have h : heldBy p sig lsb := ⟨m, e, hvalue, hm, he, hlt⟩
    obtain ⟨hreal, hnumber⟩ := encodeExtended_finite neg h0 h.extended
    exact ⟨hreal, hnumber, fun hp => encodeSingle_finite neg h0 (hp ▸ h), fun hp => encodeDouble_finite neg h0 (hp ▸ h)⟩
end

section
/-! The invalid rows of the tables (spec/42_arithmetic.md R282 to R286): an operand pair that is invalid without a trapping
NaN leaves Op2 for the handler (spec/41_operation_model.md R251). -/

namespace Sys2Proof.Machine

section
variable (o : Operands) (s : State) {a b : Extended}

/-- Op2 is for the handler unless Op1 is a trapping NaN. -/
theorem invalidPair_operand2 (ha : classify a ≠ .trappingNan) : invalidPair o s a b = invalidOperation o s (.operand b) := by
  rw [invalidPair, if_neg ha]

/-- Infinities of opposite signs have no sum. -/
theorem addOperation_oppositeInfinities (ha : isInfinity a) (hb : isInfinity b) (hs : extSign a ≠ extSign b) :
    addOperation o s a b = invalidOperation o s (.operand b) := by
  unfold isInfinity at ha hb
  rw [← invalidPair_operand2 o s (a := a) (by simp [ha])]
  simp [addOperation, ha, hb, hs]

/-- An infinity and a zero have no product. -/
theorem mulOperation_infinityZero (ha : isInfinity a) (hb : isZero b = true) :
    mulOperation o s a b = invalidOperation o s (.operand b) := by
  obtain ⟨ht, hq, -⟩ := isFiniteOperand.classify_ne (.inr hb)
  unfold isInfinity at ha
  rw [← invalidPair_operand2 o s (a := a) (by simp [ha])]
  simp [mulOperation, ha, ht, hq, hb]

theorem mulOperation_zeroInfinity (ha : isZero a = true) (hb : isInfinity b) :
    mulOperation o s a b = invalidOperation o s (.operand b) := by
  obtain ⟨ht, hq, hi⟩ := isFiniteOperand.classify_ne (.inr ha)
  unfold isInfinity at hb
  rw [← invalidPair_operand2 o s ht]
  simp [mulOperation, hb, ht, hq, hi, ha]

/-- Infinities have no quotient. -/
theorem divOperation_infinities (ha : isInfinity a) (hb : isInfinity b) :
    divOperation o s a b = invalidOperation o s (.operand b) := by
  unfold isInfinity at ha hb
  rw [← invalidPair_operand2 o s (a := a) (by simp [ha])]
  simp [divOperation, ha, hb]

/-- Nor have zeros. -/
theorem divOperation_zeros (ha : isZero a = true) (hb : isZero b = true) :
    divOperation o s a b = invalidOperation o s (.operand b) := by
  obtain ⟨ht, hq, hi⟩ := isFiniteOperand.classify_ne (.inr ha)
  obtain ⟨ht', hq', hi'⟩ := isFiniteOperand.classify_ne (.inr hb)
  rw [← invalidPair_operand2 o s ht]
  simp [divOperation, ht, hq, hi, ht', hq', hi', ha, hb]

/-- Without NaNs, an infinite dividend or a zero divisor leaves no remainder. -/
theorem remOperation_invalid (ha : isNan a = false) (hb : isNan b = false) (h : isInfinity b ∨ isZero a = true) :
    remOperation o s a b = invalidOperation o s (.operand b) := by
  obtain ⟨ht, hq⟩ := isNan_eq_false_iff.mp ha
  obtain ⟨ht', hq'⟩ := isNan_eq_false_iff.mp hb
  unfold isInfinity at h
  rw [← invalidPair_operand2 o s ht]
  simp [remOperation, ht, hq, ht', hq', h]

end

theorem isInfinity.isNan_eq {v : Extended} (h : isInfinity v) : isNan v = false := by
  rw [isNan, show classify v = .infinity from h]
  rfl

theorem isFiniteOperand.isNan_eq {v : Extended} (h : isFiniteOperand v) : isNan v = false :=
  isNan_eq_false_iff.mpr ⟨h.classify_ne.1, h.classify_ne.2.1⟩

/-- Negative infinities and numbers have no square root; no operand is named for the handler (spec/42_arithmetic.md
R290). -/
theorem sqrtOperation_negative (o : Operands) (s : State) {a : Extended} (ha : isInfinity a ∨ isNumber a)
    (hs : extSign a = true) : sqrtOperation o s a = invalidOperation o s .unspecified := by
  rcases ha with ha | ha <;> rw [sqrtOperation, show classify a = _ from ha] <;> exact if_pos hs

end Sys2Proof.Machine
end

section
/-! The obligation of the invalid operand pairs: O35. -/

open Sys2Proof Sys2Proof.Machine

/-- Settles O35: each clause is a row of a table; SUB has the row of ADD with Op1's sign complemented. -/
theorem invalidOperands : Obligations.InvalidOperands := by
  intro o s
  refine ⟨fun ha hb => ⟨fun hs => ?_, fun hs => ?_, ?_⟩, fun ha hb => ?_, fun ha hb => ?_, fun ha hb => ?_,
    fun ha hb => ?_, fun ha hb => ?_, fun ha hs => ?_⟩
  · exact invalidWith_of_operation (i := .add o) rfl rfl (addOperation_oppositeInfinities o s ha hb hs)
  · refine invalidWith_of_operation (i := .sub o) rfl rfl (addOperation_oppositeInfinities o s ?_ hb ?_)
    · rwa [isInfinity, extWithSign_classify]
    · rw [extWithSign_sign, hs]
      exact Bool.not_ne_self _
  · exact invalidWith_of_operation (i := .div o) rfl rfl (divOperation_infinities o s ha hb)
  · exact invalidWith_of_operation (i := .mul o) rfl rfl (mulOperation_infinityZero o s ha hb)
  · exact invalidWith_of_operation (i := .mul o) rfl rfl (mulOperation_zeroInfinity o s ha hb)
  · exact invalidWith_of_operation (i := .div o) rfl rfl (divOperation_zeros o s ha hb)
  · exact invalidWith_of_operation (i := .rem o) rfl rfl (remOperation_invalid o s ha hb.isNan_eq (.inl hb))
  · exact invalidWith_of_operation (i := .rem o) rfl rfl
      (remOperation_invalid o s (isFiniteOperand.isNan_eq (.inr ha)) hb (.inr ha))
  · exact invalidWith_of_operation (i := .sqrt o) rfl rfl (sqrtOperation_negative o s ha hs)
end

section
/-! SQRT and RTOI (spec/42_arithmetic.md R290, R292): the exact square root and the rounded integer, against the real
numbers. -/

namespace Sys2Proof.Machine

/-! ### The square root (R290) -/

/-- Each bit keeps the enclosure of the square root between what is found and what is still open. -/
theorem squareRootBits_spec (n : ℕ) (k : ℕ) {root : ℕ} (hlow : root * root ≤ n)
    (hhigh : n < (root + 2 ^ k) * (root + 2 ^ k)) :
    squareRootBits n k root * squareRootBits n k root ≤ n
    ∧ n < (squareRootBits n k root + 1) * (squareRootBits n k root + 1) := by
  induction k generalizing root with
  | zero => exact ⟨hlow, hhigh⟩
  | succ k ih =>
    rw [squareRootBits]
    split
    · next hle =>
      refine ih hle ?_
      rwa [add_assoc, ← two_mul, ← pow_succ']
    · next hgt => exact ih hlow (not_le.mp hgt)

/-- `squareRoot` is the integer square root of every number it is used on. -/
theorem squareRoot_eq_sqrt {n : ℕ} (h : n < 2 ^ 240) : squareRoot n = n.sqrt :=
  Nat.eq_sqrt.mpr (squareRootBits_spec n 120 (Nat.zero_le n) (h.trans_eq (by norm_num)))

/-- The square root of a natural number is the integer one, or has it as its whole part. -/
theorem sqrt_cast_bounds (n : ℕ) :
    (n.sqrt * n.sqrt = n → √(n : ℝ) = n.sqrt)
    ∧ (n.sqrt * n.sqrt ≠ n → (n.sqrt : ℝ) < √n ∧ √n < n.sqrt + 1) := by
  refine ⟨fun h => ?_, fun h => ⟨?_, Real.real_sqrt_lt_nat_sqrt_succ⟩⟩
  · rw [Real.sqrt_eq_iff_mul_self_eq (Nat.cast_nonneg _) (Nat.cast_nonneg _)]
    exact_mod_cast h.symm
  · refine lt_of_le_of_ne Real.nat_sqrt_le_real_sqrt fun heq => h ?_
    rw [eq_comm, Real.sqrt_eq_iff_mul_self_eq (Nat.cast_nonneg _) (Nat.cast_nonneg _)] at heq
    exact_mod_cast heq.symm

/-- What `exactSquareRoot` computes: the integer square root of a radicand `n` of at least 161 bits, which is the magnitude
in a unit that is a square. -/
theorem exactSquareRoot_eq {z : Exact} (h0 : 0 < z.mant) (hlt : z.mant < 2 ^ 64) :
    ∃ (n : ℕ) (k : ℤ), exactSquareRoot z = ⟨false, n.sqrt, k, n.sqrt * n.sqrt != n⟩ ∧ 2 ^ 160 ≤ n
      ∧ (z.mant : ℝ) * 2 ^ z.exp = n * ((2 : ℝ) ^ k * 2 ^ k) := by
  obtain ⟨odd, hodd, hle, k, hk⟩ : ∃ odd : ℕ, odd = (if z.exp % 2 = 0 then 0 else 1) ∧ odd ≤ 1
      ∧ ∃ k : ℤ, z.exp - odd - 160 = 2 * k := by
    refine ⟨_, rfl, ?_, (z.exp - (if z.exp % 2 = 0 then 0 else 1 : ℕ) - 160) / 2, ?_⟩ <;> split <;> omega
  have hhigh : z.mant <<< (160 + odd) < 2 ^ 240 := by
    rw [Nat.shiftLeft_eq]
    calc z.mant * 2 ^ (160 + odd) < 2 ^ 64 * 2 ^ (160 + odd) := Nat.mul_lt_mul_of_pos_right hlt (by positivity)
      _ ≤ 2 ^ 240 := by rw [← pow_add]; exact Nat.pow_le_pow_right (by decide) (by omega)
  refine ⟨z.mant <<< (160 + odd), k, ?_, ?_, ?_⟩
  · rw [exactSquareRoot, ← hodd, hk, Int.mul_ediv_cancel_left _ two_ne_zero, squareRoot_eq_sqrt hhigh]
  · rw [Nat.shiftLeft_eq]
    exact (Nat.pow_le_pow_right (by decide) (Nat.le_add_right _ _)).trans (Nat.le_mul_of_pos_left _ h0)
  · have hexp : z.exp = ((160 + odd : ℕ) : ℤ) + (k + k) := by push_cast; omega
    rw [Nat.shiftLeft_eq, hexp, zpow_add₀ two_ne_zero, zpow_add₀ two_ne_zero, zpow_natCast]
    push_cast
    ring

/-- The exact square root stands for the square root, its leading bits enough for every rounding. -/
theorem standsFor_exactSquareRoot {z : Exact} {x : ℝ} (h : standsFor z x) (hs : z.sticky = false) (hx : 0 ≤ x)
    (h0 : 0 < z.mant) (hlt : z.mant < 2 ^ 64) : standsFor (exactSquareRoot z) √x := by
  obtain ⟨n, k, heq, hn, hvalue⟩ := exactSquareRoot_eq h0 hlt
  have hpos : (0 : ℝ) < 2 ^ k := by positivity
  have hroot : |√x| = √(n : ℝ) * 2 ^ k := by
    rw [abs_of_nonneg (Real.sqrt_nonneg x), ← abs_of_nonneg hx, h.abs_eq hs, hvalue, Real.sqrt_mul (Nat.cast_nonneg _),
      Real.sqrt_mul_self hpos.le]
  obtain ⟨hexact, hbetween⟩ := sqrt_cast_bounds n
  rw [heq]
  refine ⟨?_, fun _ => by simp [Real.sqrt_nonneg]⟩
  simp only [magnitude, bne_iff_ne]
  rw [hroot]
  split
  · next hne =>
    obtain ⟨h1, h2⟩ := hbetween hne
    exact ⟨Nat.le_sqrt.mpr (le_trans (by norm_num) hn), mul_lt_mul_of_pos_right h1 hpos,
      mul_lt_mul_of_pos_right h2 hpos⟩
  · next hsquare => rw [hexact (not_not.mp hsquare)]

/-- A positive number reaches the last row of the table. -/
theorem sqrtOperation_positive (o : Operands) (s : State) {a : Extended} (ha : isNumber a) (hs : extSign a = false) :
    sqrtOperation o s a = deliverExact o s (exactSquareRoot (extValue a)) := by
  rw [sqrtOperation, show classify a = .normal from ha]
  exact if_neg (by simp [hs])

/-- Zeros of either sign, plus infinity and nontrapping NaNs are copied. -/
theorem sqrtOperation_copied (o : Operands) (s : State) {a : Extended}
    (h : isZero a = true ∨ classify a = .quietNan ∨ (isInfinity a ∧ extSign a = false)) :
    sqrtOperation o s a = deliverOperand o s a := by
  rcases h with h | h | ⟨h, hs⟩
  · rcases isZero_iff.mp h with h | h <;> rw [sqrtOperation, h]
  · rw [sqrtOperation, h]
  · rw [sqrtOperation, show classify a = .infinity from h]
    exact if_neg (by simp [hs])

/-- The value of an operand without a sign is not negative. -/
theorem extReal_nonneg {v : Extended} (hs : extSign v = false) : 0 ≤ extReal v := by
  have h := (standsFor_extValue v).eq_signFactor_mul
  rw [show (extValue v).neg = false from hs, signFactor, if_neg Bool.false_ne_true, one_mul] at h
  exact h ▸ abs_nonneg _

/-! ### Rounding to an integer (R292) -/

/-- An integer by its magnitude and sign, the sign of a zero being free. -/
theorem standsFor_signedUnits (neg : Bool) (u : ℕ) : standsFor ⟨neg, u, 0, false⟩ (signedUnits neg u : ℤ) := by
  refine ⟨?_, fun h0 => ?_⟩
  · rw [if_neg Bool.false_ne_true, abs_signedUnits, magnitude, zpow_zero, mul_one]
  · have hu : u ≠ 0 := fun hu => h0 (by simp [hu])
    cases neg <;> simp [signedUnits, Nat.pos_of_ne_zero hu]

theorem rtoiOperation_number (o : Operands) (s : State) {a : Extended} (ha : isNumber a) :
    rtoiOperation o s a = roundIntegral o s (extValue a) := by
  rw [rtoiOperation, show classify a = .normal from ha]

/-- Zeros, infinities and nontrapping NaNs are copied (the spec's decision D31, log 24). -/
theorem rtoiOperation_copied (o : Operands) (s : State) {a : Extended}
    (h : isZero a = true ∨ classify a = .quietNan ∨ isInfinity a) : rtoiOperation o s a = deliverOperand o s a := by
  rcases h with h | h | h
  · rcases isZero_iff.mp h with h | h <;> rw [rtoiOperation, h]
  · rw [rtoiOperation, h]
  · rw [rtoiOperation, show classify a = .infinity from h]

end Sys2Proof.Machine
end

section
/-! The obligations of SQRT and RTOI: O39 and O41. -/

open Sys2Proof Sys2Proof.Machine

/-- Settles O39: the exact square root stands for the real one. -/
theorem squareRoot : Obligations.SquareRoot := by
  intro o s
  refine ⟨fun ha hs => ?_, fun h => copies_of_operation (i := .sqrt o) rfl rfl (sqrtOperation_copied o s h)⟩
  obtain ⟨h0, hlt⟩ := ha.mant_bounds
  exact finishesWith_of_operation (i := .sqrt o) rfl rfl (sqrtOperation_positive o s ha hs)
    (standsFor_exactSquareRoot (standsFor_extValue _) rfl (extReal_nonneg hs) h0 hlt)

/-- Settles O41: what is finished is the rounding of O44 in units of 1, which differs from the operand exactly when the
inexact condition is forced. -/
theorem roundToIntegral : Obligations.RoundToIntegral := by
  intro o s
  refine ⟨fun ha => ?_, fun h => copies_of_operation (i := .rtoi o) rfl rfl (rtoiOperation_copied o s h)⟩
  have hstands := standsFor_extValue (source1 o s)
  have hround := roundAt_roundsTo (roundMode o s) hstands (q := 0) (by simp [extValue])
  have hexact := exactAt_iff_eq hstands (q := 0) (by simp [extValue]) hround
  rw [zpow_zero, mul_one] at hexact
  refine ⟨_, !(extValue (source1 o s)).exactAt 0, _, hround, standsFor_signedUnits _ _, rfl, ?_, ?_⟩
  · rw [Bool.not_eq_true', ← Bool.not_eq_true, hexact]
  · rw [exec_operation (i := .rtoi o) rfl, rtoiOperation_number o s ha]
    rfl
end

section
/-! REM of numbers (spec/42_arithmetic.md R286, R289) against the real numbers: the nearest quotient, the remainder it or a
partial step leaves, and what `Finish` makes of a remainder the destination holds exactly. -/

namespace Sys2Proof.Machine

/-! ### Whole units -/

/-- In a unit that divides it, a magnitude is its whole units. -/
theorem standsFor.floorAt_mul {z : Exact} {x : ℝ} {e : ℤ} (h : standsFor z x) (hs : z.sticky = false) (he : e ≤ z.exp) :
    (z.floorAt e : ℝ) * 2 ^ e = |x| := by
  rw [(exactAt_iff h (by simp [hs])).mp (by rw [exactAt_of_le he, hs]; rfl), div_mul_cancel₀ _ (by positivity)]

/-- Whole units of `2^q` are whole units of every smaller power of two. -/
theorem exactAt_mono {z : Exact} {q q' : ℤ} (hle : q' ≤ q) (h : z.exactAt q = true) : z.exactAt q' = true := by
  simp only [Exact.exactAt, Bool.and_eq_true, Bool.or_eq_true, decide_eq_true_iff, beq_iff_eq] at h ⊢
  obtain ⟨hs, hexp | hmod⟩ := h
  · exact ⟨hs, .inl (hle.trans hexp)⟩
  · exact ⟨hs, .inr (Nat.mod_eq_zero_of_dvd
      ((pow_dvd_pow 2 (by omega)).trans (Nat.dvd_of_mod_eq_zero hmod)))⟩

/-- A sign leaves an even integer even. -/
theorem even_signedUnits (neg : Bool) {u : ℕ} (hu : Even u) : Even (signedUnits neg u) := by
  have he := (Int.even_coe_nat u).mpr hu
  unfold signedUnits
  split
  · exact he.neg
  · exact he

theorem isNumber.extReal_ne_zero {v : Extended} (h : isNumber v) : extReal v ≠ 0 := by
  have hmant : (0 : ℝ) < (extValue v).mant := Nat.cast_pos.mpr h.mant_bounds.1
  rw [← abs_pos, abs_extReal, magnitude]
  positivity

/-! ### The nearest quotient -/

/-- A quotient of natural numbers and its nearest integer, even in the middle. -/
theorem nearestQuotient_spec (y : ℕ) {x : ℕ} (hx : 0 < x) :
    |(nearestQuotient y x : ℝ) - y / x| ≤ 1 / 2
    ∧ (|(nearestQuotient y x : ℝ) - y / x| = 1 / 2 → Even (nearestQuotient y x)) := by
  have hpos : (0 : ℝ) < x := Nat.cast_pos.mpr hx
  have hdiv : (y : ℝ) / x = (y / x : ℕ) + (y % x : ℕ) / (x : ℝ) := by
    rw [eq_comm, ← eq_sub_iff_add_eq', div_eq_iff hpos.ne', sub_mul, div_mul_cancel₀ _ hpos.ne']
    exact eq_sub_of_add_eq' (by exact_mod_cast Nat.div_add_mod' y x)
  have hlt : ((y % x : ℕ) : ℝ) / x < 1 := (div_lt_one hpos).mpr (Nat.cast_lt.mpr (Nat.mod_lt y hx))
  have hup : x < 2 * (y % x) ↔ 1 / 2 < ((y % x : ℕ) : ℝ) / x := by
    rw [lt_div_iff₀ hpos, ← Nat.cast_lt (α := ℝ)]
    push_cast
    constructor <;> intro h <;> linarith
  have hmid : 2 * (y % x) = x ↔ ((y % x : ℕ) : ℝ) / x = 1 / 2 := by
    rw [div_eq_iff hpos.ne', ← Nat.cast_inj (R := ℝ)]
    push_cast
    constructor <;> intro h <;> linarith
  have hnonneg : 0 ≤ ((y % x : ℕ) : ℝ) / x := by positivity
  simp only [nearestQuotient, hup, hmid, ← Nat.odd_iff]
  rw [hdiv]
  generalize ((y % x : ℕ) : ℝ) / x = t at *
  generalize y / x = n
  split
  · next h =>
    have ht : 1 / 2 ≤ t := h.elim le_of_lt fun hm => hm.1.ge
    rw [Nat.cast_add_one, abs_of_nonneg (by linarith)]
    refine ⟨by linarith, fun heq => ?_⟩
    exact (h.resolve_left fun hgt => by linarith).2.add_one
  · next h =>
    obtain ⟨hle, hodd⟩ := not_or.mp h
    rw [abs_of_nonpos (by linarith)]
    refine ⟨by linarith [not_lt.mp hle], fun heq => ?_⟩
    exact Nat.not_odd_iff_even.mp fun ho => hodd ⟨by linarith, ho⟩

/-- The quotient of two numbers by their whole units in a common one. -/
theorem div_eq_floorAt_div {z w : Exact} {x y : ℝ} {e : ℤ} (hz : standsFor z x) (hw : standsFor w y)
    (hzs : z.sticky = false) (hws : w.sticky = false) (hze : e ≤ z.exp) (hwe : e ≤ w.exp) :
    y / x = signFactor (z.neg != w.neg) * ((w.floorAt e : ℝ) / z.floorAt e) := by
  have hpos : (2 : ℝ) ^ e ≠ 0 := by positivity
  rw [hz.eq_signFactor_mul, hw.eq_signFactor_mul, ← hz.floorAt_mul hzs hze, ← hw.floorAt_mul hws hwe, mul_div_mul_comm,
    mul_div_mul_right _ _ hpos]
  cases z.neg <;> cases w.neg <;> simp [signFactor]

/-- `n` of a full remainder, with the sign of the quotient. -/
def remQuotient (a b : Exact) (e : ℤ) : ℤ := signedUnits (a.neg != b.neg) (nearestQuotient (b.floorAt e) (a.floorAt e))

/-- A full remainder is `Op2 - n*Op1` in its unit. -/
theorem fullRemainder_eq (a b : Exact) (e : ℤ) :
    fullRemainder a b e = b.toIntAt e - remQuotient a b e * a.toIntAt e := by
  simp only [fullRemainder, remQuotient, Exact.toIntAt, signedUnits]
  cases a.neg <;> cases b.neg <;> simp <;> ring

/-- That `n` is the integer nearest to the quotient, even in the middle. -/
theorem remQuotient_nearest {z w : Exact} {x y : ℝ} {e : ℤ} (hz : standsFor z x) (hw : standsFor w y)
    (hzs : z.sticky = false) (hws : w.sticky = false) (hze : e ≤ z.exp) (hwe : e ≤ w.exp) (hx : x ≠ 0) :
    |(remQuotient z w e : ℝ) - y / x| ≤ 1 / 2 ∧ (|(remQuotient z w e : ℝ) - y / x| = 1 / 2 → Even (remQuotient z w e)) := by
  have hpos : 0 < z.floorAt e := by
    have hmul := hz.floorAt_mul hzs hze
    refine Nat.pos_of_ne_zero fun h0 => hx ?_
    rwa [h0, Nat.cast_zero, zero_mul, eq_comm, abs_eq_zero] at hmul
  obtain ⟨hle, heven⟩ := nearestQuotient_spec (w.floorAt e) hpos
  rw [div_eq_floorAt_div hz hw hzs hws hze hwe, remQuotient, signedUnits_cast, ← mul_sub, abs_mul, abs_signFactor,
    one_mul]
  exact ⟨hle, fun hmid => even_signedUnits _ (heven hmid)⟩

/-! ### Remainders -/

/-- A remainder `Op2 - n*Op1` in a common unit has that value. -/
theorem toIntAt_remainder (a b : Extended) {e : ℤ} (ha : e ≤ (extValue a).exp) (hb : e ≤ (extValue b).exp) (n : ℤ) :
    (((extValue b).toIntAt e - n * (extValue a).toIntAt e : ℤ) : ℝ) * 2 ^ e = extReal b - n * extReal a := by
  rw [← (standsFor_extValue a).toIntAt_mul rfl ha, ← (standsFor_extValue b).toIntAt_mul rfl hb]
  push_cast
  ring

/-- Numbers reach the last row of the table. -/
theorem remOperation_numbers (o : Operands) (s : State) {a b : Extended} (ha : isNumber a) (hb : isNumber b) {e : ℤ}
    (he : e = min (extValue a).exp (extValue b).exp) :
    remOperation o s a b = withPartial (remStop (destPrec o s) a b e).isSome (deliverRemainder o s b
      ((remStop (destPrec o s) a b e).getD (fullRemainder (extValue a) (extValue b) e)) e) := by
  have haz := ha.isZero_eq
  have hbz := hb.isZero_eq
  unfold isNumber at ha hb
  subst he
  simp [remOperation, ha, hb, haz, hbz]

/-- A remainder is finished, or is a zero of the dividend's sign. -/
theorem deliverRemainder_eq (o : Operands) (s : State) (b : Extended) {r e : ℤ} {x : ℝ} (h : (r : ℝ) * 2 ^ e = x) :
    deliverRemainder o s b r e = if x = 0 then deliverDatum o s (.zero (extSign b)) else
      deliverFinished o s (finish s.asr (destPrec o s) (roundMode o s) false (Exact.ofInt r e)) := by
  have hzero : r = 0 ↔ x = 0 := by
    rw [← h, mul_eq_zero, or_iff_left (by positivity), Int.cast_eq_zero]
  simp only [deliverRemainder, hzero]
  rfl

/-! ### Exact results -/

/-- When nothing is signalled, `Finish` leaves a number its destination represents as it is (spec/41_operation_model.md
R246). -/
theorem finish_representable (asr : Asr) {p : Prec} (rc : RoundMode) {z : Exact} {x : ℝ} (h : standsFor z x) (hx : x ≠ 0)
    (hr : representable p z = true) (ht : (finish asr p rc false z).trap = none) :
    datumReal (finish asr p rc false z).value = x ∧ (finish asr p rc false z).ps = false := by
  rw [representable, Bool.and_eq_true, decide_eq_true_iff] at hr
  obtain ⟨htop, hexact⟩ := hr
  have hs : z.sticky = false := by
    rw [Exact.exactAt, Bool.and_eq_true, Bool.not_eq_true'] at hexact
    exact hexact.1
  have hround (q : ℤ) : roundsTo rc q x (signedUnits z.neg (roundAt rc q z)) := roundAt_roundsTo rc h (by simp [hs])
  have hvalue {q : ℤ} (hq : q ≤ max (unitOf p z) (precLeast p)) :
      ((signedUnits z.neg (roundAt rc q z) : ℤ) : ℝ) * 2 ^ q = x :=
    (exactAt_iff_eq h (by simp [hs]) (hround q)).mp (exactAt_mono hq hexact)
  have hunit := hvalue (le_max_left _ _)
  have habs : |((signedUnits z.neg (roundAt rc (unitOf p z) z) : ℤ) : ℝ)| * 2 ^ unitOf p z = |x| := by
    rw [← hunit, abs_mul, abs_of_pos (by positivity : (0 : ℝ) < 2 ^ unitOf p z)]
  have hlead := h.leadingBit_top hx
  rcases lt_or_ge |x| ((2 : ℝ) ^ precEmin p) with hlt | hge
  · have hleast := hvalue (le_max_right _ _)
    obtain ⟨-, hsignalled, hmasked⟩ := finishUnderflow asr p rc false z x _ _ _ h hx hlead (hround _) hlt
      (habs.trans_lt hlt) (hround _)
    cases hum : asr.um
    · obtain ⟨hdatum, -, -, hps, -⟩ := hmasked hum
      exact ⟨hdatum.trans hleast, Bool.eq_false_iff.mpr fun hp => (hps.mp hp).elim nofun fun hne => hne hleast⟩
    · obtain ⟨-, -, _, _, _, htrap, -⟩ := hsignalled hum
      rw [ht] at htrap
      cases htrap
  · have hrange : |x| < (2 : ℝ) ^ (precEmax p + 1) :=
      hlead.2.trans_le (zpow_le_zpow_right₀ one_le_two (by omega))
    obtain ⟨hdatum, -, -, hps, -⟩ := finishInRange asr p rc false z x _ _ h hx hlead (hround _) (habs.trans_lt hrange)
      (.inl hge)
    exact ⟨hdatum.trans hunit, Bool.eq_false_iff.mpr fun hp => (hps.mp hp).elim nofun fun hne => hne hunit⟩

/-- So it leaves a partial remainder, a zero included (spec/42_arithmetic.md R289). -/
theorem finish_partialRemainder (asr : Asr) {p : Prec} (rc : RoundMode) {r e : ℤ} {x : ℝ} (h : (r : ℝ) * 2 ^ e = x)
    (hr : r = 0 ∨ representable p (Exact.ofInt r e) = true)
    (ht : (finish asr p rc false (Exact.ofInt r e)).trap = none) :
    datumReal (finish asr p rc false (Exact.ofInt r e)).value = x
    ∧ (finish asr p rc false (Exact.ofInt r e)).ps = false := by
  subst h
  rcases eq_or_ne r 0 with rfl | h0
  · exact ⟨by rw [Int.cast_zero, zero_mul]; rfl, rfl⟩
  · exact finish_representable asr rc (standsFor_ofInt r e) (mul_ne_zero (Int.cast_ne_zero.mpr h0) (by positivity))
      (hr.resolve_left h0) ht

end Sys2Proof.Machine
end

section
/-! The obligation of REM: O40. -/

open Sys2Proof Sys2Proof.Machine

/-- Settles O40: `n` is the nearest integer of a full remainder, or what a partial step stopped at. -/
theorem remainder : Obligations.Remainder := by
  intro o s ha hb
  obtain ⟨e, he⟩ : ∃ e, e = min (extValue (source1 o s)).exp (extValue (source2 o s)).exp := ⟨_, rfl⟩
  have hea : e ≤ (extValue (source1 o s)).exp := he ▸ min_le_left _ _
  have heb : e ≤ (extValue (source2 o s)).exp := he ▸ min_le_right _ _
  have hstands1 := standsFor_extValue (source1 o s)
  have hstands2 := standsFor_extValue (source2 o s)
  have hexec := exec_operation (i := .rem o) (s := s) rfl
  rw [remOperation_numbers o s ha hb he] at hexec
  have hvalue := toIntAt_remainder (source1 o s) (source2 o s) hea heb
  cases hstop : remStop (destPrec o s) (source1 o s) (source2 o s) e with
  | none =>
    have hfull := hvalue (remQuotient (extValue (source1 o s)) (extValue (source2 o s)) e)
    rw [← fullRemainder_eq] at hfull
    rw [hstop, Option.isSome_none, Option.getD_none, deliverRemainder_eq o s _ hfull] at hexec
    exact ⟨_, false, _, hfull ▸ standsFor_ofInt _ _, hexec,
      fun _ => remQuotient_nearest hstands1 hstands2 rfl rfl hea heb ha.extReal_ne_zero, fun h => by cases h⟩
  | some r =>
    obtain ⟨hlt, hsmaller, hheld, n, rfl⟩ := remStop_some hstop
    have hpartial := hvalue n
    rw [hstop, Option.isSome_some, Option.getD_some, deliverRemainder_eq o s _ hpartial] at hexec
    refine ⟨n, true, _, hpartial ▸ standsFor_ofInt _ _, hexec, fun h => (by cases h), fun _ => ⟨?_, ?_,
      finish_partialRemainder s.asr _ hpartial hheld⟩⟩
    · rw [← hstands1.floorAt_mul rfl hea, ← hstands2.floorAt_mul rfl heb]
      exact mul_lt_mul_of_pos_right (Nat.cast_lt.mpr hlt) (by positivity)
    · rw [← hpartial, ← hstands2.floorAt_mul rfl heb, abs_mul, abs_of_pos (by positivity : (0 : ℝ) < 2 ^ e),
        ← Int.cast_abs, ← Nat.cast_natAbs]
      exact mul_lt_mul_of_pos_right (Nat.cast_lt.mpr hsmaller) (by positivity)
end

section
/-! The ordering relation of the compares (spec/43_compare.md R311) against the extended real line. -/

namespace Sys2Proof.Machine

/-! ### Operands in a common unit -/

theorem abs_toIntAt (z : Exact) (e : ℤ) : |z.toIntAt e| = z.floorAt e := by
  unfold Exact.toIntAt
  split <;> simp

/-- The place of the infinities is beyond both operands. -/
theorem abs_toIntAt_lt_lineBound (a b : Extended) (e : ℤ) :
    |(extValue a).toIntAt e| < lineBound a b e ∧ |(extValue b).toIntAt e| < lineBound a b e := by
  rw [abs_toIntAt, abs_toIntAt, lineBound]
  omega

/-- Integers of a unit that divides both magnitudes are ordered as the real values. -/
theorem toIntAt_lt_iff {a b : Extended} {e : ℤ} (ha : e ≤ (extValue a).exp) (hb : e ≤ (extValue b).exp) :
    (extValue a).toIntAt e < (extValue b).toIntAt e ↔ extReal a < extReal b := by
  rw [← (standsFor_extValue a).toIntAt_mul rfl ha, ← (standsFor_extValue b).toIntAt_mul rfl hb,
    mul_lt_mul_iff_left₀ (by positivity), Int.cast_lt]

/-! ### Operands on the line -/

theorem lineValue_infinity {v : Extended} (h : isInfinity v) (e bound : ℤ) :
    lineValue v e bound = if extSign v then -bound else bound := if_pos h

theorem lineValue_finite {v : Extended} (h : ¬ isInfinity v) (e bound : ℤ) :
    lineValue v e bound = (extValue v).toIntAt e := if_neg h

theorem extLine_infinity {v : Extended} (h : isInfinity v) : extLine v = if extSign v then ⊥ else ⊤ := if_pos h

theorem extLine_finite {v : Extended} (h : ¬ isInfinity v) : extLine v = (extReal v : EReal) := if_neg h

/-- The integers a compare works on are ordered as the operands on the extended real line: an infinity lies beyond every
finite operand, and finite operands are ordered by value. -/
theorem lineValue_lt_iff {a b : Extended} {e bound : ℤ} (ha : e ≤ (extValue a).exp) (hb : e ≤ (extValue b).exp)
    (hab : |(extValue a).toIntAt e| < bound) (hbb : |(extValue b).toIntAt e| < bound) :
    lineValue a e bound < lineValue b e bound ↔ extLine a < extLine b := by
  have hfinite := toIntAt_lt_iff ha hb
  obtain ⟨ha1, ha2⟩ := abs_lt.mp hab
  obtain ⟨hb1, hb2⟩ := abs_lt.mp hbb
  by_cases hia : isInfinity a <;> by_cases hib : isInfinity b
  · rw [lineValue_infinity hia, lineValue_infinity hib, extLine_infinity hia, extLine_infinity hib]
    cases extSign a <;> cases extSign b <;> simp <;> omega
  · rw [lineValue_infinity hia, lineValue_finite hib, extLine_infinity hia, extLine_finite hib]
    cases extSign a <;> simp [EReal.bot_lt_coe] <;> omega
  · rw [lineValue_finite hia, lineValue_infinity hib, extLine_finite hia, extLine_infinity hib]
    cases extSign b <;> simp [EReal.coe_lt_top] <;> omega
  · rw [lineValue_finite hia, lineValue_finite hib, extLine_finite hia, extLine_finite hib, EReal.coe_lt_coe_iff,
      hfinite]

/-! ### The relation -/

theorem relationOf_less_iff (x y : ℤ) : relationOf x y = .less ↔ x < y := by
  unfold relationOf
  split_ifs <;> simp_all

theorem relationOf_equal_iff (x y : ℤ) : relationOf x y = .equal ↔ x = y := by
  unfold relationOf
  split_ifs <;> simp <;> omega

theorem relationOf_ne_unordered (x y : ℤ) : relationOf x y ≠ .unordered := by
  unfold relationOf
  split_ifs <;> simp

/-- Operands are unordered exactly when one of them is a NaN. -/
theorem relation_unordered_iff (a b : Extended) : relation a b = .unordered ↔ isNan a = true ∨ isNan b = true := by
  unfold relation
  split
  · next h => simpa using h
  · next h => simpa [relationOf_ne_unordered] using h

/-- Operands that are no NaN are related as their places on the extended real line. -/
theorem relation_ordered {a b : Extended} (ha : isNan a = false) (hb : isNan b = false) :
    (relation a b = .less ↔ extLine a < extLine b) ∧ (relation a b = .equal ↔ extLine a = extLine b) := by
  obtain ⟨hab, hbb⟩ := abs_toIntAt_lt_lineBound a b (min (extValue a).exp (extValue b).exp)
  have hlt := lineValue_lt_iff (min_le_left _ _) (min_le_right _ _) hab hbb
  have hgt := lineValue_lt_iff (min_le_right _ _) (min_le_left _ _) hbb hab
  have hrel : relation a b = _ := if_neg (by simp [ha, hb])
  rw [hrel, relationOf_less_iff, relationOf_equal_iff]
  refine ⟨hlt, ?_⟩
  rw [le_antisymm_iff, le_antisymm_iff, ← not_lt, ← not_lt, ← not_lt, ← not_lt, hlt, hgt]

end Sys2Proof.Machine
end

section
/-! What a compare yields and how it ends (spec/43_compare.md R312 to R316), for the four compares at once. -/

namespace Sys2Proof.Machine

/-! ### The invalid operation -/

/-- Is the comparison an invalid operation? With a trapping NaN always, with any NaN in a `strict` compare. -/
def compareInvalid (strict : Bool) (a b : Extended) : Bool :=
  (classify a == .trappingNan || classify b == .trappingNan) || (strict && relation a b == .unordered)

theorem compareInvalid_iff (strict : Bool) (a b : Extended) :
    compareInvalid strict a b = true ↔ classify a = .trappingNan ∨ classify b = .trappingNan
      ∨ (strict = true ∧ (isNan a = true ∨ isNan b = true)) := by
  simp [compareInvalid, relation_unordered_iff, or_assoc]

/-- An invalid comparison has a NaN for an operand. -/
theorem isNan_of_compareInvalid {strict : Bool} {a b : Extended} (h : compareInvalid strict a b = true) :
    isNan a = true ∨ isNan b = true := by
  rcases (compareInvalid_iff strict a b).mp h with ha | hb | ⟨-, hn⟩
  · exact .inl (by simp [isNan, ha])
  · exact .inr (by simp [isNan, hb])
  · exact hn

/-- Everything a compare can yield: the invalid operation signalled, or the flags of the relation. -/
theorem compareOperation_cases (strict : Bool) (assign : Relation → CondFlags) (o : Operands) (s : State) :
    (compareInvalid strict (source1 o s) (source2 o s) = true ∧ invalidEnabled s.asr = true
      ∧ compareOperation strict assign o s = compareResult s true (trappedCompareFlags s.draws)
          (some (.operand (if classify (source1 o s) = .trappingNan then source1 o s else source2 o s))))
    ∨ ((compareInvalid strict (source1 o s) (source2 o s) && invalidEnabled s.asr) = false
      ∧ compareOperation strict assign o s = compareResult s (compareInvalid strict (source1 o s) (source2 o s))
          (assign (relation (source1 o s) (source2 o s))) none) := by
  cases h : compareInvalid strict (source1 o s) (source2 o s) && invalidEnabled s.asr with
  | true => exact .inl ⟨(Bool.and_eq_true_iff.mp h).1, (Bool.and_eq_true_iff.mp h).2, if_pos h⟩
  | false => exact .inr ⟨rfl, if_neg (Bool.eq_false_iff.mp h)⟩

/-! ### The four instructions -/

/-- The instruction is the compare of the operands `o` that is `strict` (CMPE, CMPES) or not, with the flags `assign`
gives. -/
inductive comparesBy (o : Operands) : Instr → Bool → (Relation → CondFlags) → Prop where
  | cmp : comparesBy o (.cmp o) false compareFlags
  | cmpe : comparesBy o (.cmpe o) true compareFlags
  | cmps : comparesBy o (.cmps o) false swappedFlags
  | cmpes : comparesBy o (.cmpes o) true swappedFlags

theorem exists_comparesBy {i : Instr} {o : Operands} (h : i = .cmp o ∨ i = .cmpe o ∨ i = .cmps o ∨ i = .cmpes o) :
    ∃ strict assign, comparesBy o i strict assign := by
  rcases h with rfl | rfl | rfl | rfl
  · exact ⟨_, _, .cmp⟩
  · exact ⟨_, _, .cmpe⟩
  · exact ⟨_, _, .cmps⟩
  · exact ⟨_, _, .cmpes⟩

section
variable {i : Instr} {o : Operands} {strict : Bool} {assign : Relation → CondFlags}

theorem comparesBy.exec_eq (h : comparesBy o i strict assign) (s : State) :
    exec i s = .next (completeOperation o true (compareOperation strict assign o s) s) := by
  cases h <;> rfl

theorem comparesBy.strict_iff (h : comparesBy o i strict assign) :
    ((i = .cmpe o ∨ i = .cmpes o) ↔ strict = true) ∧ ((i = .cmp o ∨ i = .cmps o) ↔ strict = false) := by
  cases h <;> simp

theorem comparesBy.assign_plain (h : comparesBy o i strict assign) (hi : i = .cmp o ∨ i = .cmpe o) :
    assign = compareFlags := by
  cases h <;> simp at hi ⊢

theorem comparesBy.assign_swapped (h : comparesBy o i strict assign) (hi : i = .cmps o ∨ i = .cmpes o) :
    assign = swappedFlags := by
  cases h <;> simp at hi ⊢

/-- The flags but N and Z are the same in both assignments, as are N and Z of unordered operands. -/
theorem comparesBy.flags (h : comparesBy o i strict assign) (r : Relation) :
    (assign r).io = false ∧ (assign r).pr = false ∧ ((assign r).uo = true ↔ r = .unordered)
    ∧ (r = .unordered → (assign r).n = false ∧ (assign r).z = false) := by
  cases h <;> cases r <;> simp [compareFlags, swappedFlags]

end

/-! ### The ends of a compare -/

/-- The ASR after a compare: IS, which an invalid operation sets, no other sticky bit, and the flags. -/
theorem completeOperation_compareResult (o : Operands) (s : State) (invalid : Bool) (flags : CondFlags)
    (trap : Option TrapInfo) {t : State} (ht : t = completeOperation o true (compareResult s invalid flags trap) s) :
    otherStickySame s.asr t.asr ∧ t.asr.is = (s.asr.is || invalid) ∧ t.asr.io = flags.io ∧ t.asr.pr = flags.pr
    ∧ t.asr.uo = flags.uo ∧ t.asr.n = flags.n ∧ t.asr.z = flags.z := by
  obtain ⟨hasr, -⟩ := completeOperation_common o true (compareResult s invalid flags trap) s
  rw [ht, hasr]
  simp [otherStickySame, compareResult]

/-- A signalled compare writes no destination and leaves the operand for the handler. -/
theorem completeOperation_compareSignalled (o : Operands) (s : State) (flags : CondFlags) (v : Extended) {t : State}
    (ht : t = completeOperation o true (compareResult s true flags (some (.operand v))) s) :
    t.asr.ecp = true ∧ t.regs = s.regs ∧ t.pending = .nothing ∧ drHolds t v := by
  subst ht
  exact ⟨rfl, rfl, raiseException_pending .., drHolds_operand (mode := s.modeLock) (draw := s.draws) rfl⟩

end Sys2Proof.Machine
end

section
/-! The obligation of the compares: O50. -/

open Sys2Proof Sys2Proof.Machine

/-- Settles O50: a compare signals the invalid operation, which needs a NaN, or gives the flags of the relation, which is
that of the extended real line unless an operand is a NaN. -/
theorem compareFlags : Obligations.CompareFlags := by
  intro i o s hi
  obtain ⟨strict, assign, hc⟩ := exists_comparesBy hi
  obtain ⟨hstrict, hloose⟩ := hc.strict_iff
  have hexec := hc.exec_eq s
  rw [hstrict, hloose, ← compareInvalid_iff]
  generalize ht : completeOperation o true (compareOperation strict assign o s) s = t at hexec
  refine ⟨t, hexec, ?_⟩
  rcases compareOperation_cases strict assign o s with ⟨hinv, hen, e⟩ | ⟨hnot, e⟩ <;> rw [e] at ht
  · obtain ⟨hsticky, his, hio, hpr, huo, -, -⟩ := completeOperation_compareResult o s _ _ _ ht.symm
    have hnan := isNan_of_compareInvalid hinv
    refine ⟨hsticky, hio, hpr, fun ha hb => ?_, fun _ => huo, fun _ hm => ?_, fun _ => ⟨?_, fun _ => ?_⟩,
      fun hs hta htb => ?_⟩
    · simp [ha, hb] at hnan
    · simp [hen] at hm
    · rw [his, Bool.or_true]
    · exact completeOperation_compareSignalled o s _ _ ht.symm
    · simp [compareInvalid, hs, hta, htb] at hinv
  · obtain ⟨hsticky, his, hio, hpr, huo, hn, hz⟩ := completeOperation_compareResult o s _ _ _ ht.symm
    obtain ⟨hfio, hfpr, hfuo, hfnan⟩ := hc.flags (relation (source1 o s) (source2 o s))
    rw [relation_unordered_iff] at hfuo hfnan
    refine ⟨hsticky, hio.trans hfio, hpr.trans hfpr, fun ha hb => ⟨?_, ?_, fun hp => ?_, fun hw => ?_⟩,
      fun h => huo.trans (hfuo.mpr h), fun h _ => ?_, fun h => ⟨?_, fun hen => ?_⟩, fun hs hta htb => ?_⟩
    · rw [huo, Bool.eq_false_iff, Ne, hfuo]
      simp [ha, hb]
    · have hinv : compareInvalid strict (source1 o s) (source2 o s) = false :=
        Bool.eq_false_iff.mpr fun hinv => by simpa [ha, hb] using isNan_of_compareInvalid hinv
      rw [his, hinv, Bool.or_false]
    · obtain ⟨hless, hequal⟩ := relation_ordered ha hb
      rw [hn, hz, hc.assign_plain hp, ← hless, ← hequal]
      simp [Machine.compareFlags]
    · obtain ⟨hless, hequal⟩ := relation_ordered ha hb
      rw [hn, hz, hc.assign_swapped hw, ← hless, ← hequal]
      simp [swappedFlags]
    · rw [hn, hz]
      exact hfnan h
    · rw [his, h, Bool.or_true]
    · simp [h, hen] at hnot
    · have hinv : compareInvalid strict (source1 o s) (source2 o s) = false := by simp [compareInvalid, hs, hta, htb]
      rw [his, hinv, Bool.or_false]
end

section
/-! The transfers that raise nothing: what RDASR, WRASR, LDR and EROF leave of a completion (spec/44_data_transfer.md R333
to R335, spec/47_miscellaneous.md R390). -/

namespace Sys2Proof.Machine

/-! ### Completion without an exception -/

/-- Only a register destination changes a register. -/
theorem regsAfter_noRegister {o : Operands} (hd : ∀ q p, o.op3 ≠ .reg q p) (v : Extended) (s : State) :
    regsAfter o v s = s.regs := by
  unfold regsAfter
  split
  · cases ho : o.op3 with
    | reg q p => exact absurd ho (hd q p)
    | mem n => exact regs_write_mem ..
    | none => exact regs_write_none ..
  · rfl

/-- A memory destination is no register. -/
theorem op3_ne_reg_of_mem {o : Operands} {n : MemSize} (hd : o.op3 = .mem n) (q : Reg) (p : Prec) : o.op3 ≠ .reg q p := by
  simp [hd]

/-- In peripheral mode the words of a memory destination are read from DR (log 42). -/
theorem drKept_mem {o : Operands} {n : MemSize} {s : State} (hd : o.op3 = .mem n) (hm : s.modeLock = .peripheral)
    (image : Triple) : drKept o image s = image := by
  unfold drKept
  rw [hd]
  exact if_pos hm

/-- An exempt operation that keeps DR delivers its words to memory in either protocol (spec/20_memory.md R99, R112). -/
theorem completeRaw_words {o : Operands} {n : MemSize} (hd : o.op3 = .mem n) (asr : Asr) (v : Extended) (image : Triple)
    (s : State) : deliversWords s.modeLock (completeRaw o asr (drKept o image s) v image s) image := by
  refine ⟨fun hm => ?_, fun hm => ?_⟩
  · rw [completeRaw_dr, drKept_mem hd hm]
  · simp [hm, hd, pendingFor]

/-! ### The words transferred -/

/-- Every word the destination takes is the word repeated. -/
theorem tripleWord_repeatWord (w : Word) (fill : Triple) {n : MemSize} {k : ℕ} (hk : k < n.words) :
    tripleWord (repeatWord n w fill) k = w := by
  cases n with
  | one =>
    obtain rfl : k = 0 := Nat.lt_one_iff.mp hk
    exact tripleWord_zero ..
  | two =>
    obtain ⟨h0, h1, -⟩ := tripleWord_triple w w (fill.extractLsb' 0 32)
    obtain rfl | rfl : k = 0 ∨ k = 1 := by change k < 2 at hk; omega
    · exact h0
    · exact h1
  | three =>
    obtain ⟨h0, h1, h2⟩ := tripleWord_triple w w w
    obtain rfl | rfl | rfl : k = 0 ∨ k = 1 ∨ k = 2 := by change k < 3 at hk; omega
    · exact h0
    · exact h1
    · exact h2

/-- The word RDASR stores is that of the ASR but for bit 31 (the spec's decision D34, log 27). -/
theorem rdasrWord_getLsbD (s : State) {b : ℕ} (hb : b < 31) : (rdasrWord s).getLsbD b = s.asr.toWord.getLsbD b := by
  rw [rdasrWord, toWord_getLsbD, toWord_getLsbD]
  unfold Asr.bit
  split
  · omega
  all_goals rfl

/-- The words of RDASR's image. -/
theorem rdasrImage_mem {o : Operands} {n : MemSize} (s : State) (hd : o.op3 = .mem n) :
    rdasrImage o s = repeatWord n (rdasrWord s) (Config.freeImage s.draws) := by
  unfold rdasrImage
  rw [hd]

/-- The last word of a memory Op1 whose words have all arrived (spec/41_operation_model.md R224). -/
theorem lastWordOp1_mem {o : Operands} {s : State} {n : MemSize} {w : Word} (hs : o.op1 = .mem n)
    (hlen : s.op1In.length = n.words) (hw : s.op1In.getLast? = some w) : lastWordOp1 o s = w := by
  simp only [lastWordOp1, hs, hlen, if_true, List.getLastD_eq_getLast?, hw, Option.getD_some]

/-- A triple-word Op1, raw (spec/41_operation_model.md R224). -/
theorem tripleOp1_three {o : Operands} {s : State} {w0 w1 w2 : Word} (hs : o.op1 = .mem .three)
    (hw : s.op1In = [w0, w1, w2]) : tripleOp1 o s = w0 ++ w1 ++ w2 := by
  simp only [tripleOp1, hs, hw]

/-- LDR loads DR unless the words of a destination it should not have are read from there (log 42). -/
theorem ldrDr_unread {o : Operands} {s : State} (h : s.modeLock = .coprocessor ∨ ∀ n, o.op3 ≠ .mem n) :
    ldrDr o s = tripleOp1 o s := by
  unfold ldrDr
  split
  · next n hn =>
    have hm := h.resolve_right fun hd => hd n hn
    simp [hm]
  all_goals rfl

end Sys2Proof.Machine
end

section
/-! The obligation of the raw transfers: O59. -/

open Sys2Proof Sys2Proof.Machine

/-- Settles O59: each transfer is a `completeRaw`, whose ASR, DR, registers and words are the operation's own. -/
theorem rawTransfers : Obligations.RawTransfers := by
  intro o s
  refine ⟨fun n hd => ?_, fun n w hs hlen hw => ?_, fun w0 w1 w2 hs hw => ?_, fun hd => ?_⟩
  · refine ⟨_, rdasrImage o s, rfl, completeRaw_words hd .., fun hm => drKept_unread (.inl hm) _,
      regsAfter_noRegister (op3_ne_reg_of_mem hd) _ s, rfl, fun k hk b hb => ?_⟩
    rw [rdasrImage_mem s hd, tripleWord_repeatWord _ _ hk, rdasrWord_getLsbD s hb]
  · refine ⟨_, rfl, congrArg Asr.ofWord (lastWordOp1_mem hs hlen hw), fun hd => regsAfter_noRegister hd _ s,
      fun hm => ?_, fun hm => ?_⟩ <;> simp [hm]
  · exact ⟨_, rfl, fun h => (ldrDr_unread h).trans (tripleOp1_three hs hw), fun hd => regsAfter_noRegister hd _ s, rfl⟩
  · have himage := erofImage_three s hd
    have hwords := completeRaw_words hd (asrCompleted s.asr) (Config.freeReg s.draws) (erofImage o s) s
    exact ⟨_, rfl, himage ▸ hwords, exec_leavesDr (i := .erof o) rfl ⟨o, .inr (.inl ⟨rfl, hd⟩)⟩,
      regsAfter_noRegister (op3_ne_reg_of_mem hd) _ s, rfl⟩
end

section
/-! MOVE, ABS and NEG (spec/44_data_transfer.md R331, spec/42_arithmetic.md R281, R291): ABS and NEG are MOVE of Op1 with
another sign. -/

namespace Sys2Proof.Machine

/-- Replacing the sign leaves J and the fraction. -/
@[simp] theorem extWithSign_nan (neg : Bool) (v : Extended) :
    extJ (extWithSign neg v) = extJ v ∧ extFraction (extWithSign neg v) = extFraction v := by
  obtain ⟨-, hsig, -⟩ := extWithSign_fields neg v
  have hbit {k : ℕ} (hk : k < 64) : (extWithSign neg v).getLsbD k = v.getLsbD k := by
    rw [← testBit_lowField _ hk, hsig, testBit_lowField _ hk]
  refine ⟨hbit (by decide), BitVec.eq_of_getLsbD_eq fun k hk => ?_⟩
  rw [extFraction, extFraction, BitVec.getLsbD_extractLsb', BitVec.getLsbD_extractLsb', hbit (by omega)]

/-- An operand copied with another sign keeps its class, J and fraction. -/
theorem copies_extWithSign {i : Instr} {s : State} {neg : Bool} {v : Extended} (h : copies i s (extWithSign neg v)) :
    (isNumber v → copiesNumber i s (extWithSign neg v) (extReal (extWithSign neg v)))
    ∧ (isInfinity v → deliversOnly i s (.infinity neg)) ∧ (isZero v = true → deliversOnly i s (.zero neg))
    ∧ (classify v = .quietNan → deliversOnly i s (.nan neg (extJ v) (extFraction v))) := by
  simpa [copies, isNumber, isInfinity] using h

/-- MOVE's operation delivers a value that comes from no trapping NaN. -/
theorem moveOperation_of_ne (o : Operands) (s : State) {a : Extended} (v : Extended) (ha : classify a ≠ .trappingNan) :
    moveOperation o s a v = deliverOperand o s v := if_neg ha

section
variable {o : Operands} {s : State} (h : classify (source1 o s) ≠ .trappingNan)
include h

theorem copies_move : copies (.move o) s (source1 o s) :=
  copies_of_operation rfl rfl (moveOperation_of_ne o s _ h)

theorem copies_abs : copies (.abs o) s (extWithSign false (source1 o s)) :=
  copies_of_operation rfl rfl (moveOperation_of_ne o s _ h)

theorem copies_neg : copies (.neg o) s (extWithSign (!extSign (source1 o s)) (source1 o s)) :=
  copies_of_operation rfl rfl (moveOperation_of_ne o s _ h)

end

end Sys2Proof.Machine
end

section
/-! The obligation of MOVE, ABS and NEG: O42. -/

open Sys2Proof Sys2Proof.Machine

/-- Settles O42: unless Op1 is a trapping NaN, all three copy a value of its class, with the sign wanted. -/
theorem moveFamily : Obligations.MoveFamily := by
  intro o s
  by_cases ht : classify (source1 o s) = .trappingNan
  · unfold isNumber isInfinity
    simp [ht, isZero]
  · obtain ⟨hmove, hmoveInf, hmoveZero, hmoveNan⟩ := copies_move ht
    obtain ⟨habs, habsInf, habsZero, habsNan⟩ := copies_extWithSign (copies_abs ht)
    obtain ⟨hneg, hnegInf, hnegZero, hnegNan⟩ := copies_extWithSign (copies_neg ht)
    rw [extReal_clearSign] at habs
    rw [extReal_flipSign] at hneg
    exact ⟨fun h => ⟨hmove h, habs h, hneg h⟩, fun h => ⟨hmoveInf h, habsInf h, hnegInf h⟩,
      fun h => ⟨hmoveZero h, habsZero h, hnegZero h⟩, fun h => ⟨hmoveNan h, habsNan h, hnegNan h⟩⟩
end

section
/-! Numbers their destination represents (spec/40_data_formats.md R196, R211): when no underflow is signalled, `Finish`
leaves them, and encoding them gives their own fields back. -/

namespace Sys2Proof.Machine

/-! ### Fields of a number -/

/-- A biased exponent field and a `P`-bit significand as precision `p` writes a number that is not 0: the field is 0
exactly below the leading significand bit (spec/40_data_formats.md R196, R211). -/
structure NumberFields (p : Prec) (e n : ℕ) : Prop where
  pos : 0 < n
  lt : n < 2 ^ precBits p
  normalized : 0 < e ↔ 2 ^ (precBits p - 1) ≤ n
  high : (e : ℤ) ≤ 2 * precEmax p

/-- The exponent of one unit of the significand: field 0 counts as field 1 (spec/40_data_formats.md R196). -/
def fieldUnit (p : Prec) (e : ℕ) : ℤ := max (e : ℤ) 1 - precEmax p - precBits p + 1

section
variable {p : Prec} {e n : ℕ}

/-- The leading bit of a number with these fields is at most `P - 1` places above the unit, and is there when the field is
not 0. -/
theorem NumberFields.log2_bounds (h : NumberFields p e n) :
    n.log2 < precBits p ∧ (0 < e ↔ precBits p ≤ n.log2 + 1) := by
  obtain ⟨hbits, -⟩ := precBits_bounds p
  refine ⟨(Nat.log2_lt h.pos.ne').mpr h.lt, ?_⟩
  rw [h.normalized, ← Nat.le_log2 h.pos.ne']
  omega

/-- A number has one exponent field and one significand, however it is written (spec/40_data_formats.md R211). -/
theorem NumberFields.finiteFields_eq (h : NumberFields p e n) {sig : ℕ} {lsb : ℤ} (h0 : 0 < sig)
    (hv : (sig : ℝ) * (2 : ℝ) ^ lsb = n * (2 : ℝ) ^ fieldUnit p e) : finiteFields p sig lsb = (e, n) := by
  have htop := log2_add_eq h0 hv
  have hscale := scale_exact hv
  obtain ⟨hlog, hnormal⟩ := h.log2_bounds
  have hmin : precEmin p = 1 - precEmax p := rfl
  have hleast : precLeast p = precEmin p - precBits p + 1 := rfl
  have hunit : fieldUnit p e = max (e : ℤ) 1 - precEmax p - precBits p + 1 := rfl
  simp only [finiteFields]
  split
  · next hlow =>
    have he : e = 0 := by omega
    have hg : precLeast p = fieldUnit p e := by omega
    rw [hg, hscale, he]
  · next hhigh =>
    have he : 0 < e := by omega
    have hg : (sig.log2 : ℤ) + lsb - precBits p + 1 = fieldUnit p e := by omega
    have hfield : ((sig.log2 : ℤ) + lsb + precEmax p).toNat = e := by omega
    rw [hg, hscale, hfield]

end

/-! ### `Finish` -/

/-- Whole units of `2^g` are not rounded in any unit that is no larger. -/
theorem standsFor.roundAt_mul {z : Exact} {x : ℝ} {n : ℕ} {q g : ℤ} (h : standsFor z x) (hs : z.sticky = false)
    (hx : |x| = n * (2 : ℝ) ^ g) (hq : q ≤ g) (rc : RoundMode) :
    z.exactAt q = true ∧ (roundAt rc q z : ℝ) * (2 : ℝ) ^ q = n * (2 : ℝ) ^ g := by
  obtain ⟨k, rfl⟩ := Int.le.dest hq
  have hunits : |x| / (2 : ℝ) ^ q = (n * 2 ^ k : ℕ) := by
    rw [hx, zpow_add₀ two_ne_zero, zpow_natCast]
    push_cast
    field_simp
  have hfloor := floorAt_eq_floor h (q := q) (by simp [hs])
  rw [hunits, Int.floor_natCast] at hfloor
  have hexact : z.exactAt q = true := by
    rw [exactAt_iff h (by simp [hs]), hunits]
    exact_mod_cast hfloor
  have hround := (exactAt_iff_eq h (by simp [hs]) (roundAt_roundsTo rc h (by simp [hs]))).mp hexact
  refine ⟨hexact, ?_⟩
  rw [← hx, ← hround, abs_mul, abs_signedUnits, abs_of_pos (by positivity)]

/-- When no underflow is signalled, `Finish` signals nothing of a number its destination represents, sets no sticky bit,
and gives a datum with the fields of that number. -/
theorem finish_numberFields {asr : Asr} (rc : RoundMode) {p : Prec} {e n : ℕ} {z : Exact} {x : ℝ} (hu : asr.um = false)
    (hz : standsFor z x) (hs : z.sticky = false) (h : NumberFields p e n)
    (hx : |x| = n * (2 : ℝ) ^ fieldUnit p e) :
    ∃ sig lsb, finish asr p rc false z = ⟨false, false, false, none, .finite z.neg sig lsb⟩
      ∧ finiteFields p sig lsb = (e, n) := by
  have hpos : (0 : ℝ) < n * (2 : ℝ) ^ fieldUnit p e := mul_pos (Nat.cast_pos.mpr h.pos) (by positivity)
  have hmant : z.mant ≠ 0 := hz.mant_ne_zero fun h0 => hpos.ne (by rw [← hx, h0, abs_zero])
  have hmagnitude : (z.mant : ℝ) * (2 : ℝ) ^ z.exp = n * (2 : ℝ) ^ fieldUnit p e := by
    rw [← hx, hz.abs_eq hs]
  obtain ⟨hlog, -⟩ := h.log2_bounds
  have hhigh := h.high
  have htop : z.top = n.log2 + fieldUnit p e := log2_add_eq (Nat.pos_of_ne_zero hmant) hmagnitude
  have hmin : precEmin p = 1 - precEmax p := rfl
  have hleast : precLeast p = precEmin p - precBits p + 1 := rfl
  have hunit : fieldUnit p e = max (e : ℤ) 1 - precEmax p - precBits p + 1 := rfl
  have hq : unitOf p z = z.top - precBits p + 1 := rfl
  have hmax : 1 ≤ precEmax p := by cases p <;> decide
  have hrounded {q : ℤ} (hle : q ≤ fieldUnit p e) :
      z.exactAt q = true ∧ 0 < roundAt rc q z ∧ finiteFields p (roundAt rc q z) q = (e, n)
      ∧ ((roundAt rc q z).log2 : ℤ) + q = z.top := by
    obtain ⟨hexact, hvalue⟩ := hz.roundAt_mul hs hx hle rc
    have hsig : 0 < roundAt rc q z := pos_of_mul_zpow_eq h.pos hvalue.symm
    exact ⟨hexact, hsig, h.finiteFields_eq hsig hvalue, (log2_add_eq hsig hvalue).trans htop.symm⟩
  obtain ⟨hexact, -, hfields, hutop⟩ := hrounded (q := unitOf p z) (by omega)
  obtain ⟨hexact', hsig', hfields', -⟩ := hrounded (q := precLeast p) (by omega)
  rcases finish_cases asr p rc false z (.inl hmant) with
    ⟨hc, -⟩ | ⟨hc, -⟩ | ⟨-, -, -, hc, -⟩ | ⟨-, -, -, -, hf⟩ | ⟨-, -, hf⟩
  · omega
  · omega
  · simp [hu] at hc
  · rw [datumOf, if_neg hsig'.ne', hexact'] at hf
    exact ⟨_, _, hf, hfields'⟩
  · rw [hexact] at hf
    exact ⟨_, _, hf, hfields⟩

/-- So such a number is delivered without any exception or sticky bit. -/
theorem deliverExact_numberFields {o : Operands} {s : State} {e n : ℕ} {z : Exact} {x : ℝ} (hu : s.asr.um = false)
    (hz : standsFor z x) (hs : z.sticky = false) (h : NumberFields (destPrec o s) e n)
    (hx : |x| = n * (2 : ℝ) ^ fieldUnit (destPrec o s) e) :
    ∃ sig lsb, deliverExact o s z = deliverDatum o s (.finite z.neg sig lsb)
      ∧ finiteFields (destPrec o s) sig lsb = (e, n) := by
  obtain ⟨sig, lsb, hf, hfields⟩ := finish_numberFields (roundMode o s) hu hz hs h hx
  exact ⟨sig, lsb, by rw [deliverExact, hf]; rfl, hfields⟩

end Sys2Proof.Machine
end

section
/-! A source in its double-extended form, delivered to a double-extended destination, keeps every bit
(spec/44_data_transfer.md R331, spec/60_exceptions.md R450). -/

namespace Sys2Proof.Machine

/-- A pattern is its sign, exponent field and fraction side by side. -/
theorem eq_packed_fields {k m : ℕ} (w : BitVec (1 + k + m)) :
    w = BitVec.ofBool (w.getLsbD (m + k)) ++ w.extractLsb' m k ++ w.extractLsb' 0 m := by
  refine BitVec.eq_of_getLsbD_eq fun i hi => ?_
  rw [BitVec.getLsbD_append, BitVec.getLsbD_append, BitVec.getLsbD_extractLsb', BitVec.getLsbD_extractLsb']
  split
  · next hm => simp [hm]
  · next hm =>
    split
    · next hk => rw [decide_eq_true hk, Bool.true_and, Nat.add_sub_cancel' (by omega)]
    · next hk =>
      obtain rfl : i = m + k := by omega
      simp

/-- A double-extended pattern is packed from its fields. -/
theorem packExt_eq (v : Extended) : packExt (extSign v) (extExponent v) (extSignificand v) = v := by
  rw [packExt, extExponent, extSignificand, BitVec.ofNat_toNat, BitVec.ofNat_toNat, BitVec.setWidth_eq, BitVec.setWidth_eq]
  exact (eq_packed_fields (k := 15) (m := 64) v).symm

/-- What the class says of the fields (spec/40_data_formats.md R190, R198). -/
theorem classify_fields (v : Extended) :
    (classify v = .infinity → extExponent v = 32767 ∧ extSignificand v = 0)
    ∧ (isNan v = true → extExponent v = 32767) ∧ (isZero v = true → extSignificand v = 0)
    ∧ (classify v = .normal → extExponent v ≠ 32767 ∧ extSignificand v ≠ 0) := by
  unfold isNan isZero classify
  split_ifs <;> simp_all

/-- A significand is normalized exactly when J is 1 (spec/40_data_formats.md R190). -/
theorem extJ_iff (v : Extended) : extJ v = true ↔ 2 ^ 63 ≤ extSignificand v := by
  have hlt : extSignificand v < 2 ^ 64 := (v.extractLsb' 0 64).isLt
  have hbit : (extSignificand v).testBit 63 = extJ v := testBit_lowField v (len := 64) (by decide)
  refine ⟨fun h => Nat.ge_two_pow_of_testBit (hbit.trans h), fun h => ?_⟩
  rw [← hbit, Nat.testBit_eq_decide_div_mod_eq, decide_eq_true_iff]
  omega

/-- A NaN is packed from its sign, J and its fraction. -/
theorem encodeExtended_nan_eq {v : Extended} (h : extExponent v = 32767) :
    encodeExtended (.nan (extSign v) (extJ v) (extFraction v)) = v := by
  have hexp : v.extractLsb' 64 15 = 0x7FFF#15 := BitVec.eq_of_toNat_eq h
  have hsig : v.extractLsb' 0 64 = BitVec.ofBool (extJ v) ++ extFraction v := by
    refine BitVec.eq_of_getLsbD_eq fun i hi => ?_
    rw [extFraction, extJ, BitVec.getLsbD_append, BitVec.getLsbD_extractLsb', BitVec.getLsbD_extractLsb']
    split
    · next h63 => simp [hi, h63]
    · next h63 =>
      obtain rfl : i = 63 := by omega
      simp
  rw [encodeExtended, ← hexp, BitVec.append_assoc]
  exact (congrArg (BitVec.ofBool (extSign v) ++ v.extractLsb' 64 15 ++ ·) hsig).symm.trans
    (eq_packed_fields (k := 15) (m := 64) v).symm

/-- The fields of a number that is not unnormalized, but for field 0 with J = 1, are those double-extended precision writes
it with. -/
theorem numberFields_extended {v : Extended} (hv : isNumber v) (hshape : extExponent v = 0 ∨ extJ v = true)
    (hk : isFieldZeroNormal v = false) :
    NumberFields .extended (extExponent v) (extSignificand v)
    ∧ |extReal v| = extSignificand v * (2 : ℝ) ^ fieldUnit .extended (extExponent v) := by
  obtain ⟨-, -, -, hnormal⟩ := classify_fields v
  obtain ⟨hmax, hsig⟩ := hnormal hv
  have hlt : extExponent v < 2 ^ 15 := (v.extractLsb' 64 15).isLt
  refine ⟨⟨Nat.pos_of_ne_zero hsig, (v.extractLsb' 0 64).isLt, ?_, by rw [precEmax]; omega⟩, ?_⟩
  · rw [precBits, ← extJ_iff]
    rcases hshape with h | h <;> simp_all [isFieldZeroNormal, Nat.pos_iff_ne_zero]
  · have hexp : (extValue v).exp = fieldUnit .extended (extExponent v) := by
      simp only [extValue, fieldUnit, precEmax, precBits]
      split <;> omega
    rw [abs_extReal, magnitude, hexp]
    rfl

/-- A finite operand that is not unnormalized has exponent field 0 or J = 1. -/
theorem isFiniteOperand.shape {v : Extended} (hv : isFiniteOperand v)
    (h : isNan v = true ∨ isInfinity v ∨ extExponent v = 0 ∨ extJ v = true) : extExponent v = 0 ∨ extJ v = true := by
  obtain ⟨ht, hq, hi⟩ := hv.classify_ne
  rcases h with h | h | h
  · rw [isNan_eq_false_iff.mpr ⟨ht, hq⟩] at h
    cases h
  · exact absurd h hi
  · exact h

/-- Delivered to a double-extended destination, an operand that is neither unnormalized nor a number of field 0 with J = 1
is encoded as it was (spec/44_data_transfer.md R331). -/
theorem deliverOperand_extended {o : Operands} {s : State} {v : Extended} (hu : s.asr.um = false)
    (hp : destPrec o s = .extended)
    (hshape : isNan v = true ∨ isInfinity v ∨ extExponent v = 0 ∨ extJ v = true)
    (hk : ¬ (isNumber v ∧ isFieldZeroNormal v = true)) :
    ∃ d, deliverOperand o s v = deliverDatum o s d ∧ encodeExtended d = v := by
  obtain ⟨hinf, hnan, hzero, -⟩ := classify_fields v
  rcases deliverOperand_cases o s v with ⟨hc, hd⟩ | ⟨hc, hd⟩ | ⟨hc, hd⟩ | ⟨hc, hd⟩
  · obtain ⟨he, hsig⟩ := hinf hc
    exact ⟨_, hd, by rw [encodeExtended, ← he, ← hsig, packExt_eq]⟩
  · exact ⟨_, hd, encodeExtended_nan_eq (hnan hc)⟩
  · have hsig := hzero hc
    have he : extExponent v = 0 := (isFiniteOperand.shape (.inr hc) hshape).resolve_right fun hj => by
      simp [extJ_iff, hsig] at hj
    refine ⟨_, hd, ?_⟩
    calc packExt (extSign v) 0 0 = packExt (extSign v) (extExponent v) (extSignificand v) := by rw [he, hsig]
      _ = v := packExt_eq v
  · have hk' : isFieldZeroNormal v = false := Bool.eq_false_iff.mpr fun h => hk ⟨hc, h⟩
    obtain ⟨hfields, hvalue⟩ := numberFields_extended hc (isFiniteOperand.shape (.inl hc) hshape) hk'
    rw [← hp] at hfields hvalue
    obtain ⟨sig, lsb, hdeliver, hff⟩ := deliverExact_numberFields hu (standsFor_extValue v) rfl hfields hvalue
    have hnumber : deliverNumber o s v = deliverExact o s (extValue v) := if_neg (by simp [hk'])
    refine ⟨_, (hd.trans hnumber).trans hdeliver, ?_⟩
    rw [hp] at hff
    rw [encodeExtended, hff]
    exact packExt_eq v

end Sys2Proof.Machine
end

section
/-! A source of a narrower format, delivered to a destination of that format, keeps every bit (spec/44_data_transfer.md
R331, spec/40_data_formats.md R197, R211). Single and double precision are two formats of one shape. -/

namespace Sys2Proof.Machine

/-- The encoding that `encodeSingle` and `encodeDouble` share: a sign, `k` bits of exponent field and `m` fraction bits
(spec/40_data_formats.md R182, R185, R211). -/
def encodeNarrow (p : Prec) (k m : ℕ) : Datum → BitVec (1 + k + m)
  | .nan neg _ f => BitVec.ofBool neg ++ BitVec.allOnes k ++ (narrowFraction p f).extractLsb' (63 - m) m
  | .generatedNan => BitVec.ofBool false ++ BitVec.allOnes k ++ BitVec.allOnes m
  | .infinity neg => BitVec.ofBool neg ++ BitVec.allOnes k ++ 0#m
  | .zero neg => BitVec.ofBool neg ++ 0#k ++ 0#m
  | .finite neg sig lsb =>
    BitVec.ofBool neg ++ BitVec.ofNat k (finiteFields p sig lsb).1 ++ BitVec.ofNat m (finiteFields p sig lsb).2

theorem encodeSingle_eq (d : Datum) : encodeSingle d = encodeNarrow .single 8 23 d := by
  cases d <;> rfl

theorem encodeDouble_eq (d : Datum) : encodeDouble d = encodeNarrow .double 11 52 d := by
  cases d <;> rfl

/-- Precision `p` is that of a format with `k` bits of exponent field and `m` fraction bits, which keeps a NaN fraction
that fits (spec/40_data_formats.md R182, R185, the spec's decision D27, log 21). -/
structure NarrowFormat (p : Prec) (bias k m : ℕ) : Prop where
  fits : Fits bias (2 ^ k - 1) m
  emax : 2 ^ k - 1 = 2 * bias + 1
  prec : precBits p = m + 1
  range : precEmax p = bias
  narrow : p ≠ .extended
  keepsFraction : ∀ f : BitVec 63, f.extractLsb' 0 (63 - m) = 0 → narrowFraction p f = f

theorem narrowFormat_single : NarrowFormat .single 127 8 23 :=
  ⟨fits_single, by decide, rfl, rfl, by decide, fun _ hf => if_pos hf⟩

theorem narrowFormat_double : NarrowFormat .double 1023 11 52 :=
  ⟨fits_double, by decide, rfl, rfl, by decide, fun _ hf => if_pos hf⟩

/-- The sign of a packed pattern, whatever its fields. -/
theorem extSign_packExt (neg : Bool) (e sig : ℕ) : extSign (packExt neg e sig) = neg :=
  (packed_fields neg (BitVec.ofNat 15 e) (BitVec.ofNat 64 sig)).1

/-- Widening keeps the sign (spec/40_data_formats.md R197). -/
theorem extSign_widen (bias emax fbits : ℕ) (neg : Bool) (e f : ℕ) : extSign (widen bias emax fbits neg e f) = neg := by
  unfold widen
  split_ifs <;> exact extSign_packExt ..

/-- The fraction of a NaN of `m` fraction bits stands at the top of the 63 fraction bits of double-extended. -/
theorem extFraction_widened {m : ℕ} (hm : m ≤ 63) (neg : Bool) (e : ℕ) (f : BitVec m) :
    (extFraction (packExt neg e (2 ^ 63 + f.toNat <<< (63 - m)))).extractLsb' 0 (63 - m) = 0
    ∧ (extFraction (packExt neg e (2 ^ 63 + f.toNat <<< (63 - m)))).extractLsb' (63 - m) m = f := by
  have hbit (i : ℕ) : (extFraction (packExt neg e (2 ^ 63 + f.toNat <<< (63 - m)))).getLsbD i
      = (decide (i < 63) && (decide (63 - m ≤ i) && f.getLsbD (i - (63 - m)))) := by
    rw [extFraction, BitVec.getLsbD_extractLsb', packExt, Nat.zero_add, BitVec.getLsbD_append]
    by_cases hi : i < 63
    · rw [if_pos (by omega), BitVec.getLsbD_ofNat, Nat.testBit_two_pow_add_gt hi, Nat.testBit_shiftLeft,
        BitVec.testBit_toNat]
      simp [hi, show i < 64 by omega]
    · simp [hi]
  refine ⟨BitVec.eq_of_getLsbD_eq fun i hi => ?_, BitVec.eq_of_getLsbD_eq fun i hi => ?_⟩
  · rw [BitVec.getLsbD_extractLsb', hbit]
    simp [show ¬ 63 - m ≤ i by omega]
  · rw [BitVec.getLsbD_extractLsb', hbit]
    simp [hi, show 63 - m + i < 63 by omega]

section
variable {p : Prec} {bias k m : ℕ}

/-- The significand of a finite number of a narrower format, its implicit bit first (spec/40_data_formats.md R183,
R186). -/
def narrowSignificand (m e f : ℕ) : ℕ := if e = 0 then f else 2 ^ m + f

/-- The fields of a finite number that is not 0 are those its own precision writes it with. -/
theorem NarrowFormat.numberFields (hfmt : NarrowFormat p bias k m) (neg : Bool) {e f : ℕ} (he : e < 2 ^ k - 1)
    (hf : f < 2 ^ m) (h0 : e ≠ 0 ∨ f ≠ 0) :
    NumberFields p e (narrowSignificand m e f)
    ∧ |fieldsReal bias m neg e f| = narrowSignificand m e f * (2 : ℝ) ^ fieldUnit p e := by
  have hpow : 2 ^ (m + 1) = 2 ^ m + 2 ^ m := by rw [pow_succ]; omega
  have hpos : 0 < 2 ^ m := Nat.two_pow_pos m
  have hemax := hfmt.emax
  have hhigh : (e : ℤ) ≤ 2 * precEmax p := by rw [hfmt.range]; omega
  have hunit : fieldUnit p e = max (e : ℤ) 1 - bias - m := by
    rw [fieldUnit, hfmt.range, hfmt.prec]
    push_cast
    ring
  rw [hunit, fieldsReal, abs_mul, abs_signFactor, one_mul, abs_of_nonneg (by split_ifs <;> positivity)]
  unfold narrowSignificand
  split
  · next he0 =>
    subst he0
    refine ⟨⟨by omega, by rw [hfmt.prec]; omega, by rw [hfmt.prec, Nat.add_sub_cancel]; omega, hhigh⟩, ?_⟩
    rw [Nat.cast_zero, max_eq_right zero_le_one, zpow_sub₀ two_ne_zero (1 - (bias : ℤ))]
    ring
  · next he0 =>
    refine ⟨⟨by omega, by rw [hfmt.prec]; omega, by rw [hfmt.prec, Nat.add_sub_cancel]; omega, hhigh⟩, ?_⟩
    rw [max_eq_left (by omega), zpow_sub₀ two_ne_zero ((e : ℤ) - bias), zpow_natCast]
    push_cast
    field_simp

/-- The fraction bits of that significand. -/
theorem ofNat_narrowSignificand (e : ℕ) (f : BitVec m) : BitVec.ofNat m (narrowSignificand m e f.toNat) = f := by
  refine BitVec.eq_of_toNat_eq ?_
  rw [BitVec.toNat_ofNat, narrowSignificand]
  split
  · exact Nat.mod_eq_of_lt f.isLt
  · rw [Nat.add_mod_left, Nat.mod_eq_of_lt f.isLt]

/-- Widening a number that is not 0 keeps its value and gives a number (spec/40_data_formats.md R197). -/
theorem widen_number {bias emax fbits : ℕ} (hfit : Fits bias emax fbits) (neg : Bool) {e f : ℕ} (he : e < emax)
    (hf : f < 2 ^ fbits) (h0 : e ≠ 0 ∨ f ≠ 0) :
    extReal (widen bias emax fbits neg e f) = fieldsReal bias fbits neg e f
    ∧ isNumber (widen bias emax fbits neg e f) := by
  by_cases he0 : e = 0
  · subst he0
    exact widen_denormalized hfit neg he.ne' hf (h0.resolve_left (not_not.mpr rfl))
  · exact widen_normalized hfit neg he hf he0

/-- A widened infinity or nontrapping NaN is encoded as it was (a NaN by the model's reading, log 21). -/
theorem NarrowFormat.deliverOperand_special (hfmt : NarrowFormat p bias k m) (o : Operands) (s : State) (neg : Bool)
    (f : BitVec m) (hc : classify (widen bias (2 ^ k - 1) m neg (2 ^ k - 1) f.toNat) ≠ .trappingNan) :
    ∃ d, deliverOperand o s (widen bias (2 ^ k - 1) m neg (2 ^ k - 1) f.toNat) = deliverDatum o s d
      ∧ encodeNarrow p k m d = BitVec.ofBool neg ++ BitVec.allOnes k ++ f := by
  obtain ⟨hsign, hclass⟩ := widen_special hfmt.fits neg f.isLt
  by_cases hf : f.toNat = 0
  · rw [if_pos hf] at hclass
    exact ⟨.infinity neg, by rw [deliverOperand, hclass, hsign], by rw [encodeNarrow, (toNat_eq_zero_iff f).mp hf]; rfl⟩
  · obtain ⟨hlow, hhigh⟩ := extFraction_widened hfmt.fits.fraction.2 neg 32767 f
    have hnan : classify (widen bias (2 ^ k - 1) m neg (2 ^ k - 1) f.toNat) = .quietNan := by
      rw [hclass, if_neg hf] at hc ⊢
      exact if_pos (of_not_not fun hq => hc (if_neg hq))
    refine ⟨_, by rw [deliverOperand, hnan], ?_⟩
    rw [encodeNarrow, hsign, widen, if_pos rfl, if_neg hf, hfmt.keepsFraction _ hlow, hhigh]

/-- So is a widened zero. -/
theorem NarrowFormat.deliverOperand_zero (hfmt : NarrowFormat p bias k m) (o : Operands) (s : State) (neg : Bool) :
    deliverOperand o s (widen bias (2 ^ k - 1) m neg 0 0) = deliverDatum o s (.zero neg) := by
  have hzero : widen bias (2 ^ k - 1) m neg 0 0 = packExt neg 0 0 := by
    rw [widen, if_neg (by rw [hfmt.emax]; omega), if_pos rfl, if_pos rfl]
  rw [hzero, deliverOperand, classify_packExt_zero, extSign_packExt]

/-- So is a widened number, when no underflow is signalled: its own precision represents it. -/
theorem NarrowFormat.deliverOperand_number (hfmt : NarrowFormat p bias k m) {o : Operands} {s : State}
    (hu : s.asr.um = false) (hp : destPrec o s = p) (neg : Bool) {e : BitVec k} {f : BitVec m} (he : e.toNat < 2 ^ k - 1)
    (h0 : e.toNat ≠ 0 ∨ f.toNat ≠ 0) :
    ∃ d, deliverOperand o s (widen bias (2 ^ k - 1) m neg e.toNat f.toNat) = deliverDatum o s d
      ∧ encodeNarrow p k m d = BitVec.ofBool neg ++ e ++ f := by
  have hsign := extSign_widen bias (2 ^ k - 1) m neg e.toNat f.toNat
  obtain ⟨hreal, hnumber⟩ := widen_number hfmt.fits neg he f.isLt h0
  obtain ⟨hfields, hvalue⟩ := hfmt.numberFields neg he f.isLt h0
  rw [← hreal] at hvalue
  generalize widen bias (2 ^ k - 1) m neg e.toNat f.toNat = v at hsign hnumber hvalue ⊢
  subst hp
  obtain ⟨sig, lsb, hdeliver, hff⟩ := deliverExact_numberFields hu (standsFor_extValue v) rfl hfields hvalue
  have hexact : deliverNumber o s v = deliverExact o s (extValue v) := if_neg fun h => hfmt.narrow h.2
  refine ⟨.finite (extSign v) sig lsb, ?_, ?_⟩
  · rw [deliverOperand, show classify v = .normal from hnumber]
    exact hexact.trans hdeliver
  · rw [encodeNarrow, hff, hsign, ofNat_narrowSignificand, BitVec.ofNat_toNat, BitVec.setWidth_eq]

/-- Delivered to a destination of its own format, an operand that is no trapping NaN is encoded as it was
(spec/44_data_transfer.md R331). -/
theorem NarrowFormat.deliverOperand_widen (hfmt : NarrowFormat p bias k m) {o : Operands} {s : State}
    (hu : s.asr.um = false) (hp : destPrec o s = p) (neg : Bool) (e : BitVec k) (f : BitVec m)
    (hc : classify (widen bias (2 ^ k - 1) m neg e.toNat f.toNat) ≠ .trappingNan) :
    ∃ d, deliverOperand o s (widen bias (2 ^ k - 1) m neg e.toNat f.toNat) = deliverDatum o s d
      ∧ encodeNarrow p k m d = BitVec.ofBool neg ++ e ++ f := by
  by_cases hmax : e.toNat = 2 ^ k - 1
  · obtain rfl : e = BitVec.allOnes k := BitVec.eq_of_toNat_eq (by rw [BitVec.toNat_allOnes, hmax])
    rw [BitVec.toNat_allOnes] at hc ⊢
    exact hfmt.deliverOperand_special o s neg f hc
  · by_cases h0 : e.toNat = 0 ∧ f.toNat = 0
    · obtain ⟨he, hf⟩ := h0
      refine ⟨.zero neg, by rw [he, hf, hfmt.deliverOperand_zero], ?_⟩
      rw [encodeNarrow, (toNat_eq_zero_iff e).mp he, (toNat_eq_zero_iff f).mp hf]
      rfl
    · exact hfmt.deliverOperand_number hu hp neg (by omega) (not_and_or.mp h0)

end

end Sys2Proof.Machine
end

section
/-! MOVE to a destination that holds its source in the source's own form (spec/44_data_transfer.md R331). -/

namespace Sys2Proof.Machine

/-- An instruction that delivers only a datum leaves the sticky bits and delivers the datum's encoding. -/
theorem deliversOnly.ends {i : Instr} {s : State} {d : Datum} (h : deliversOnly i s d) :
    ∃ t, exec i s = .next t ∧ t.asr.is = s.asr.is ∧ otherStickySame s.asr t.asr
      ∧ (∀ q p, i.operands.op3 = .reg q p → deliversRegister s.modeLock t q (encodeRegister p d))
      ∧ ∀ n, i.operands.op3 = .mem n → deliversWords s.modeLock t (encodeMemory n (Config.freeImage s.draws) d) := by
  refine ⟨_, h, by simp [deliverDatum], by simp [otherStickySame, deliverDatum], fun q p hd => ?_, fun n hd => ?_⟩
  · have hreg : (deliverDatum i.operands s d).reg = encodeRegister p d := by rw [deliverDatum, destPrec, hd]
    exact hreg ▸ deliverResult_register hd true _ s
  · have himage : (deliverDatum i.operands s d).image = encodeMemory n (Config.freeImage s.draws) d := by
      rw [deliverDatum, memoryImage, hd]
    exact himage ▸ deliverResult_words hd _ s

/-- A double-extended register receives the double-extended encoding. -/
theorem encodeRegister_extended (d : Datum) : encodeRegister .extended d = encodeExtended d := by
  cases d <;> rfl

/-- MOVE delivers what delivering Op1 yields, unless that is a trapping NaN. -/
theorem move_deliversOnly {o : Operands} {s : State} {d : Datum} (h : classify (source1 o s) ≠ .trappingNan)
    (hd : deliverOperand o s (source1 o s) = deliverDatum o s d) : deliversOnly (.move o) s d :=
  deliversOnly_of_operation rfl rfl ((moveOperation_of_ne o s _ h).trans hd)

/-- MOVE to a double-extended destination copies an operand that is neither a trapping NaN nor unnormalized
(spec/60_exceptions.md R450; to a register by the model's reading, log 19). -/
theorem move_extended {o : Operands} {s : State} (hu : s.asr.um = false) (hp : destPrec o s = .extended)
    (h : classify (source1 o s) ≠ .trappingNan)
    (hshape : isNan (source1 o s) = true ∨ isInfinity (source1 o s) ∨ extExponent (source1 o s) = 0
      ∨ extJ (source1 o s) = true) :
    ∃ t, exec (.move o) s = .next t ∧ t.asr.is = s.asr.is ∧ otherStickySame s.asr t.asr
      ∧ (∀ q, o.op3 = .reg q .extended → deliversRegister s.modeLock t q (source1 o s))
      ∧ (o.op3 = .mem .three → deliversWords s.modeLock t (0#16 ++ source1 o s)) := by
  by_cases hk : isNumber (source1 o s) ∧ isFieldZeroNormal (source1 o s) = true
  · obtain ⟨hnumber, hkeep⟩ := hk
    obtain ⟨hcopied, -⟩ := (copies_move h).number hnumber
    obtain ⟨t, ht, -, -, -, -, -, -, -, -, his, hos, hus, hqs, hps, hreg, hmem⟩ :=
      hcopied ((keepsPattern_iff _ _).mpr ⟨hkeep, hp⟩)
    exact ⟨t, ht, his, ⟨hos, hus, hqs, hps⟩, fun q => hreg q .extended, hmem⟩
  · obtain ⟨d, hd, henc⟩ := deliverOperand_extended hu hp hshape hk
    obtain ⟨t, ht, his, hsticky, hreg, hmem⟩ := (move_deliversOnly h hd).ends
    refine ⟨t, ht, his, hsticky, fun q hq => ?_, fun hm => ?_⟩
    · have hr := hreg q .extended hq
      rwa [encodeRegister_extended, henc] at hr
    · have hw := hmem .three hm
      rwa [encodeMemory, henc] at hw

/-- MOVE from memory to memory of one of the narrower formats copies the operand's bits. -/
theorem NarrowFormat.move {p : Prec} {bias k m : ℕ} (hfmt : NarrowFormat p bias k m) {o : Operands}
    {s : State} {n : MemSize} (hu : s.asr.um = false) (hp : destPrec o s = p) (hn : o.op3 = .mem n)
    (w : BitVec (1 + k + m))
    (hw : source1 o s = widen bias (2 ^ k - 1) m (w.getLsbD (m + k)) (w.extractLsb' m k).toNat (w.extractLsb' 0 m).toNat)
    (h : classify (source1 o s) ≠ .trappingNan) :
    ∃ t d, exec (.move o) s = .next t ∧ deliversWords s.modeLock t (encodeMemory n (Config.freeImage s.draws) d)
      ∧ encodeNarrow p k m d = w ∧ t.asr.is = s.asr.is ∧ otherStickySame s.asr t.asr := by
  obtain ⟨d, hd, henc⟩ := hfmt.deliverOperand_widen hu hp _ _ _ (hw ▸ h)
  rw [← hw] at hd
  obtain ⟨t, ht, his, hsticky, -, hmem⟩ := (move_deliversOnly h hd).ends
  exact ⟨t, d, ht, hmem n hn, henc.trans (eq_packed_fields w).symm, his, hsticky⟩

/-- A single-precision operand in memory. -/
theorem source1_single {o : Operands} {s : State} {w : Word} (ho : o.op1 = .mem .one) (hw : s.op1In = [w]) :
    source1 o s = widenSingle w := by
  rw [source1, ho, hw]
  rfl

/-- A double-precision operand in memory. -/
theorem source1_double {o : Operands} {s : State} {w0 w1 : Word} (ho : o.op1 = .mem .two) (hw : s.op1In = [w0, w1]) :
    source1 o s = widenDouble (w0 ++ w1) := by
  rw [source1, ho, hw]
  rfl

/-- A register operand. -/
theorem source1_reg {o : Operands} {q : Reg} (ho : o.op1 = .reg q) (s : State) : source1 o s = s.regs.get q := by
  rw [source1, ho]
  rfl

end Sys2Proof.Machine
end

section
/-! The obligation of MOVE as the identity: O43. -/

open Sys2Proof Sys2Proof.Machine

/-- Settles O43: single and double precision are two narrow formats; a double-extended destination holds the source's own
form. -/
theorem moveIsIdentity : Obligations.MoveIsIdentity := by
  intro s hu
  refine ⟨fun w rc hw hc => ?_, fun w0 w1 rc hw hc => ?_, fun o q ho => source1_reg ho s, fun o hc hshape =>
    ⟨fun hd => ?_, fun q hd => ?_⟩⟩
  · have hsource := source1_single (o := ⟨.mem .one, .none, .mem .one, rc⟩) rfl hw
    obtain ⟨t, d, ht, hwords, henc, his, hsticky⟩ :=
      narrowFormat_single.move hu rfl rfl w hsource (hsource ▸ hc)
    rw [encodeMemory, encodeSingle_eq, henc] at hwords
    exact ⟨t, _, ht, hwords, tripleWord_zero .., his, hsticky⟩
  · have hsource := source1_double (o := ⟨.mem .two, .none, .mem .two, rc⟩) rfl hw
    obtain ⟨t, d, ht, hwords, henc, his, hsticky⟩ :=
      narrowFormat_double.move hu rfl rfl (w0 ++ w1) hsource (hsource ▸ hc)
    rw [encodeMemory, encodeDouble_eq, henc] at hwords
    obtain ⟨h0, h1, -⟩ := tripleWord_triple w0 w1 ((Config.freeImage s.draws).extractLsb' 0 32)
    exact ⟨t, _, ht, hwords, h0, h1, his, hsticky⟩
  · obtain ⟨t, ht, his, hsticky, -, hmem⟩ := move_extended hu (by rw [destPrec, hd]) hc hshape
    exact ⟨t, ht, hmem hd, his, hsticky⟩
  · obtain ⟨t, ht, his, hsticky, hreg, -⟩ := move_extended hu (by rw [destPrec, hd]) hc hshape
    exact ⟨t, ht, hreg q hd, his, hsticky⟩
end

section
/-! Decimal containers (spec/40_data_formats.md R200 to R203): what a container is, digit by digit, and the container of a
number below 10^18. -/

namespace Sys2Proof.Machine

/-! ### Digits as sums -/

/-- Reading decimal digits from the most significant one down gives their weighted sum. -/
theorem foldl_decimal (d : ℕ → ℕ) (n acc : ℕ) :
    ((List.range n).reverse.map d).foldl (fun acc d => 10 * acc + d) acc
      = acc * 10 ^ n + ∑ k ∈ Finset.range n, d k * 10 ^ k := by
  induction n generalizing acc with
  | zero => simp
  | succ n ih =>
    rw [List.range_succ, List.reverse_concat, List.map_cons, List.foldl_cons, ih, Finset.sum_range_succ]
    ring

/-- Adding up term by term is the sum. -/
theorem foldl_add_range (f : ℕ → ℕ) (n : ℕ) :
    (List.range n).foldl (fun acc k => acc + f k) 0 = ∑ k ∈ Finset.range n, f k := by
  induction n with
  | zero => rfl
  | succ n ih => rw [List.range_succ, List.foldl_concat, ih, Finset.sum_range_succ]

/-- The digits of a number add up to it, as far as they are taken. -/
theorem sum_digits (m n : ℕ) : ∑ k ∈ Finset.range n, m / 10 ^ k % 10 * 10 ^ k = m % 10 ^ n := by
  induction n with
  | zero => simp [Nat.mod_one]
  | succ n ih => rw [Finset.sum_range_succ, ih, Nat.mod_pow_succ, mul_comm]

/-- A weighted sum of digits has those digits. -/
theorem sum_div_mod {b : ℕ} {d : ℕ → ℕ} (hd : ∀ k, d k < b) {n i : ℕ} (hi : i < n) :
    (∑ k ∈ Finset.range n, d k * b ^ k) / b ^ i % b = d i := by
  have hb : 0 < b := Nat.zero_lt_of_lt (hd 0)
  induction n generalizing i d with
  | zero => exact absurd hi (Nat.not_lt_zero i)
  | succ n ih =>
    have hlow : ∑ k ∈ Finset.range (n + 1), d k * b ^ k = d 0 + b * ∑ k ∈ Finset.range n, d (k + 1) * b ^ k := by
      rw [Finset.sum_range_succ', Finset.mul_sum, add_comm, pow_zero, mul_one]
      simp only [pow_succ', mul_left_comm]
    rw [hlow]
    cases i with
    | zero => rw [pow_zero, Nat.div_one, Nat.add_mul_mod_self_left, Nat.mod_eq_of_lt (hd 0)]
    | succ i =>
      rw [pow_succ', ← Nat.div_div_eq_div_mul, Nat.add_mul_div_left _ _ hb, Nat.div_eq_of_lt (hd 0), zero_add]
      exact ih (fun k => hd (k + 1)) (Nat.lt_of_succ_lt_succ hi)

/-! ### What a container is -/

/-- Some digit is above 9. -/
theorem decDigits_any_iff (t : Triple) :
    (decDigits t).any (fun d => 10 ≤ d) = true ↔ ∃ k < 18, 10 ≤ decimalDigit t k := by
  simp only [decDigits, List.any_map, List.any_reverse, List.any_eq_true, List.mem_range, Function.comp_apply,
    decide_eq_true_iff]
  rfl

/-- A sign nibble below 10 tells infinities and NaNs apart (spec/40_data_formats.md R201, R202). -/
theorem decClassify_special {t : Triple} {sign : ℕ} (hs : sign = (t.extractLsb' 0 4).toNat) :
    (sign ≤ 1 → decClassify t = .infinity (decide (sign = 1)))
    ∧ (2 ≤ sign → sign ≤ 3 → decClassify t = .signedNan (decide (sign = 3)))
    ∧ (4 ≤ sign → sign ≤ 9 → decClassify t = .trappingNan) := by
  refine ⟨fun h => ?_, fun h2 h => ?_, fun h4 h => ?_⟩ <;> simp only [decClassify, ← hs] <;>
    interval_cases sign <;> rfl

/-- Any other is a number's sign, and the digits say whether there is a number. -/
theorem decClassify_signed {t : Triple} {sign : ℕ} (hs : sign = (t.extractLsb' 0 4).toNat) (h : 10 ≤ sign) :
    ((∃ k < 18, 10 ≤ decimalDigit t k) → decClassify t = .badDigitNan)
    ∧ ((∀ k < 18, decimalDigit t k < 10) → decClassify t =
        .number (decide (sign = 11 ∨ sign = 13)) (∑ k ∈ Finset.range 18, decimalDigit t k * 10 ^ k)) := by
  have hclass : decClassify t = if (decDigits t).any (fun d => 10 ≤ d) then .badDigitNan
      else .number (sign == 11 || sign == 13) ((decDigits t).foldl (fun acc d => 10 * acc + d) 0) := by
    simp only [decClassify, ← hs]
    rw [if_neg (by omega), if_neg (by omega), if_neg (by omega), if_neg (by omega), if_neg (by omega)]
  rw [hclass]
  refine ⟨fun hbad => if_pos ((decDigits_any_iff t).mpr hbad), fun hd => ?_⟩
  have hgood : ¬ ∃ k < 18, 10 ≤ decimalDigit t k := fun ⟨k, hk, hbad⟩ => absurd (hd k hk) (not_lt.mpr hbad)
  rw [if_neg (mt (decDigits_any_iff t).mp hgood), decDigits, foldl_decimal, zero_mul, zero_add, Bool.decide_or]
  rfl

/-! ### The container FTOD writes -/

/-- The fields of a container. -/
theorem decimalImage_fields (digits : BitVec 72) (sign : BitVec 4) :
    (decimalImage digits sign).extractLsb' 76 20 = 0 ∧ (decimalImage digits sign).extractLsb' 0 4 = sign
    ∧ ∀ k < 18, decimalDigit (decimalImage digits sign) k = (digits.extractLsb' (4 * k) 4).toNat := by
  unfold decimalDigit decimalImage
  refine ⟨?_, ?_, fun k hk => congrArg BitVec.toNat ?_⟩ <;> ext j hj <;>
    simp only [BitVec.getElem_extractLsb', BitVec.getLsbD_append]
  · rw [if_neg (by omega), if_neg (by omega)]
    simp
  · rw [if_pos (by omega), zero_add, BitVec.getLsbD_eq_getElem]
  · rw [if_neg (by omega), if_pos (by omega), show 4 * k + 4 + j - 4 = 4 * k + j by omega]

/-- Digit `k` of a packed number. -/
theorem decPack_digit (m : ℕ) {k : ℕ} (hk : k < 18) : ((decPack m).extractLsb' (4 * k) 4).toNat = m / 10 ^ k % 10 := by
  have hdigit := sum_div_mod (b := 16) (d := fun k => m / 10 ^ k % 10) (fun k => by omega) hk
  have hpow : (16 : ℕ) ^ k = 2 ^ (4 * k) := (pow_mul 2 4 k).symm
  rw [← hdigit, hpow, decPack, foldl_add_range (fun k => m / 10 ^ k % 10 * 16 ^ k), BitVec.extractLsb'_toNat,
    BitVec.toNat_ofNat, Nat.shiftRight_eq_div_pow]
  refine Nat.eq_of_testBit_eq fun j => ?_
  rw [show (16 : ℕ) = 2 ^ 4 from rfl, Nat.testBit_mod_two_pow, Nat.testBit_mod_two_pow, Nat.testBit_div_two_pow,
    Nat.testBit_div_two_pow, Nat.testBit_mod_two_pow]
  by_cases hj : j < 4 <;> simp [hj]
  omega

/-- The sign nibble written for a number is one of its sign (spec/40_data_formats.md R201). -/
theorem decSignNibble_spec (neg : Bool) :
    10 ≤ (decSignNibble neg).toNat ∧ decide ((decSignNibble neg).toNat = 11 ∨ (decSignNibble neg).toNat = 13) = neg := by
  unfold decSignNibble
  split_ifs <;> simp_all

/-- A container of a number below 10^18 holds it. -/
theorem decClassify_decPack (neg : Bool) {m : ℕ} (hm : m < 10 ^ 18) :
    decClassify (decimalImage (decPack m) (decSignNibble neg)) = .number neg m := by
  obtain ⟨-, hsign, hdigits⟩ := decimalImage_fields (decPack m) (decSignNibble neg)
  obtain ⟨h10, hneg⟩ := decSignNibble_spec neg
  have hdigit {k : ℕ} (hk : k < 18) :
      decimalDigit (decimalImage (decPack m) (decSignNibble neg)) k = m / 10 ^ k % 10 :=
    (hdigits k hk).trans (decPack_digit m hk)
  obtain ⟨-, hnumber⟩ := decClassify_signed (congrArg BitVec.toNat hsign).symm h10
  rw [hnumber fun k hk => hdigit hk ▸ Nat.mod_lt _ (by norm_num), hneg,
    Finset.sum_congr rfl fun k hk => by rw [hdigit (Finset.mem_range.mp hk)], sum_digits, Nat.mod_eq_of_lt hm]

end Sys2Proof.Machine
end

section
/-! The conversions to floating point (spec/45_conversion.md R351, R354, R356). -/

namespace Sys2Proof.Machine

/-- DTOF of three words converts the decimal they are. -/
theorem dtofOperation_three {o : Operands} {s : State} {w0 w1 w2 : Word} (hs : o.op1 = .mem .three)
    (hw : s.op1In = [w0, w1, w2]) : dtofOperation o s = fromDecimal o s (w0 ++ w1 ++ w2) := by
  rw [dtofOperation, if_neg (by simp [hs, srcIsReg]), tripleOp1_three hs hw]

/-- A decimal number gives its value, a zero its sign. -/
theorem fromDecimal_number (o : Operands) (s : State) {t : Triple} {neg : Bool} {m : ℕ} (h : decClassify t = .number neg m) :
    (m ≠ 0 → fromDecimal o s t = deliverExact o s ⟨neg, m, 0, false⟩)
    ∧ (m = 0 → fromDecimal o s t = deliverDatum o s (.zero neg)) := by
  rw [fromDecimal, h]
  exact ⟨fun hm => if_neg hm, fun hm => if_pos hm⟩

/-- A decimal NaN that does not trap gives one of its sign, or of a free one where it is made by a digit above 9 (the
spec's decision D36, log 29). -/
theorem fromDecimal_nan (o : Operands) (s : State) {t : Triple} :
    (∀ neg, decClassify t = .signedNan neg →
      ∃ j f, f.getLsbD 62 = true ∧ fromDecimal o s t = deliverDatum o s (.nan neg j f))
    ∧ (decClassify t = .badDigitNan →
      ∃ neg j f, f.getLsbD 62 = true ∧ fromDecimal o s t = deliverDatum o s (.nan neg j f)) := by
  have hquiet (f : BitVec 62) : (1#1 ++ f : BitVec 63).getLsbD 62 = true := by
    rw [BitVec.getLsbD_append, if_neg (by omega)]
    rfl
  refine ⟨fun neg h => ⟨Config.freeNanJ s.draws, _, hquiet (Config.freeNanFraction s.draws), ?_⟩,
    fun h => ⟨Config.freeNanSign s.draws, Config.freeNanJ s.draws, _, hquiet (Config.freeNanFraction s.draws), ?_⟩⟩ <;>
    rw [fromDecimal, h]

/-- ITOF of memory words converts the last of them. -/
theorem itofOperation_mem {o : Operands} {s : State} {n : MemSize} {w : Word} (hs : o.op1 = .mem n)
    (hlen : s.op1In.length = n.words) (hw : s.op1In.getLast? = some w) :
    (w.toInt ≠ 0 → itofOperation o s = deliverExact o s (Exact.ofInt w.toInt 0))
    ∧ (w.toInt = 0 → itofOperation o s = deliverDatum o s (.zero false)) := by
  simp only [itofOperation, lastWordOp1_mem hs hlen hw]
  rw [if_neg (by simp [hs, srcIsReg])]
  exact ⟨fun h => if_neg h, fun h => if_pos h⟩

end Sys2Proof.Machine
end

section
/-! The obligation of the conversions to floating point: O53. -/

open Sys2Proof Sys2Proof.Machine

/-- Settles O53: the sign nibble and the digits say what a container is, and what DTOF delivers follows that; the integers
converted stand for their values. -/
theorem toFloat : Obligations.ToFloat := by
  refine ⟨fun t sign hs => ?_, fun o s => ⟨fun n ho hlen w hw => ?_, fun w0 w1 w2 ho hw => ?_⟩⟩
  · obtain ⟨hinf, hnan, htrap⟩ := decClassify_special hs
    exact ⟨hinf, hnan, htrap, fun h => (decClassify_signed hs h).1, fun h => (decClassify_signed hs h).2⟩
  · obtain ⟨hnumber, hzero⟩ := itofOperation_mem ho hlen hw
    have hvalue := standsFor_ofInt w.toInt 0
    rw [zpow_zero, mul_one] at hvalue
    exact ⟨fun h => finishesWith_of_operation (i := .itof o) rfl rfl (hnumber h) hvalue,
      fun h => deliversOnly_of_operation (i := .itof o) rfl rfl (hzero h)⟩
  · have hop := dtofOperation_three ho hw
    have hdelivers {d : Datum} (h : fromDecimal o s (w0 ++ w1 ++ w2) = deliverDatum o s d) : deliversOnly (.dtof o) s d :=
      deliversOnly_of_operation (i := .dtof o) rfl rfl (hop.trans h)
    obtain ⟨hsigned, hbad⟩ := fromDecimal_nan o s (t := w0 ++ w1 ++ w2)
    refine ⟨fun neg m hc => ?_, fun neg hc => hdelivers (by rw [fromDecimal, hc]), fun neg hc => ?_, fun hc => ?_,
      fun hc => invalidWith_of_operation (i := .dtof o) rfl rfl (hop.trans (by rw [fromDecimal, hc]; rfl))⟩
    · obtain ⟨hnumber, hzero⟩ := fromDecimal_number o s hc
      refine ⟨fun h => ?_, fun h => hdelivers (hzero h)⟩
      rw [← signedUnits_cast]
      exact finishesWith_of_operation (i := .dtof o) rfl rfl (hop.trans (hnumber h)) (standsFor_signedUnits neg m)
    · obtain ⟨j, f, hf, h⟩ := hsigned neg hc
      exact ⟨j, f, hf, hdelivers h⟩
    · obtain ⟨neg, j, f, hf, h⟩ := hbad hc
      exact ⟨neg, j, f, hf, hdelivers h⟩
end

section
/-! The conversions to integer and decimal (spec/45_conversion.md R352, R353): the integer a finite operand is rounded to,
and the ends these conversions have. -/

namespace Sys2Proof.Machine

/-! ### The integer -/

/-- The rounding of an exact value to an integer, its magnitude, and when the inexact condition exists
(spec/41_operation_model.md R241). -/
theorem roundsTo_integer {rc : RoundMode} {z : Exact} {x : ℝ} {n : ℤ} (h : standsFor z x) (hs : z.sticky = false)
    (hn : roundsTo rc 0 x n) :
    roundToInt rc z = n ∧ roundAt rc 0 z = n.natAbs ∧ ((!z.exactAt 0) = true ↔ (n : ℝ) ≠ x) := by
  have hunits : signedUnits z.neg (roundAt rc 0 z) = n := roundsTo_unique (roundAt_roundsTo rc h (by simp [hs])) hn
  have hinexact := inexact_iff (forced := false) h (by simp [hs]) hn
  refine ⟨hunits, ?_, by simpa using hinexact⟩
  rw [← hunits]
  cases z.neg <;> simp [signedUnits]

/-- An operand that is no NaN and no infinity is finite. -/
theorem isFiniteOperand_of_ordinary {v : Extended} (hn : isNan v = false) (hi : ¬ isInfinity v) : isFiniteOperand v := by
  rcases classify_cases v with h | h | h | h
  · exact absurd h hi
  · simp [h] at hn
  · exact .inr h
  · exact .inl h

/-! ### How a conversion ends -/

/-- A result for memory is delivered whether or not DR keeps it (spec/60_exceptions.md R435). -/
theorem deliverResult_wordsOut {o : Operands} {n : MemSize} (hd : o.op3 = .mem n) (kept : Bool) (r : OpResult) (s : State) :
    deliversWords s.modeLock (deliverResult o kept r s) r.image := by
  refine ⟨fun hm => ?_, fun hm => ?_⟩
  · rw [deliverResult_dr, drAfter_mem _ hd (.inr hm)]
  · simp [hm, hd, pendingFor]

section
variable {i : Instr} {o : Operands} {s : State} {kept : Bool}

/-- An overflow sets IO and no sticky bit, and signals nothing. -/
theorem overflowed_end {image : Triple} (h : exec i s = .next (completeOperation o kept
      (convertedResult s false false (overflowedFlags s.draws) none image) s)) :
    ∃ t, exec i s = .next t ∧ t.asr.io = true ∧ t.asr.pr = false ∧ t.asr.uo = false ∧ t.asr.is = s.asr.is
      ∧ otherStickySame s.asr t.asr ∧ (t.asr.ecp = true → s.asr.ecp = true) := by
  refine ⟨_, h, ?_⟩
  simp +contextual [completeOperation, convertedResult, overflowedFlags, otherStickySame]

/-- A result that is exact, or whose inexactness is masked, is delivered; PS tells of it. -/
theorem convertedInexact_delivered {inexact : Bool} {flags : CondFlags} {image : Triple} {isExact : Prop}
    (h : exec i s = .next (completeOperation o kept (convertedInexact s inexact flags image) s))
    (hinexact : inexact = true ↔ ¬ isExact) (hpm : s.asr.pm = false ∨ isExact) :
    ∃ t, t = deliverResult o kept (convertedResult s false inexact flags none image) s ∧ exec i s = .next t
      ∧ (t.asr.ps = true ↔ s.asr.ps = true ∨ ¬ isExact) := by
  rw [convertedInexact, if_neg (by rcases hpm with hpm | hpm <;> simp [hpm, hinexact])] at h
  refine ⟨_, rfl, h, ?_⟩
  rw [deliverResult_asr, asrAfter_ps, Bool.or_eq_true, ← hinexact]
  rfl

/-- One that is signalled leaves the destination. -/
theorem convertedInexact_signalled {inexact : Bool} {flags : CondFlags} {image : Triple}
    (h : exec i s = .next (completeOperation o kept (convertedInexact s inexact flags image) s))
    (hpm : s.asr.pm = true) (hinexact : inexact = true) :
    ∃ t, exec i s = .next t ∧ t.asr.ps = true ∧ t.asr.ecp = true ∧ t.asr.io = false ∧ t.asr.is = s.asr.is
      ∧ t.regs = s.regs ∧ t.pending = .nothing := by
  rw [convertedInexact, if_pos (by simp [hpm, hinexact])] at h
  refine ⟨_, h, ?_⟩
  simp [completeOperation, convertedResult, trappedFlags]

end

/-! ### FTOI to memory -/

section
variable {o : Operands} (s : State) {a : Extended} (hd : ∀ q p, o.op3 ≠ .reg q p)
include hd

theorem dstIsReg_eq_false : dstIsReg o.op3 = false := by
  cases ho : o.op3 with
  | reg q p => exact absurd ho (hd q p)
  | mem n => rfl
  | none => rfl

/-- A NaN or infinity is invalid. -/
theorem ftoiOperation_special (h : isNan a = true ∨ isInfinity a) : ftoiOperation o s a = toIntegerInvalid s a := by
  simp [ftoiOperation, dstIsReg_eq_false hd, (ftoiSpecial_iff a).mpr h]

/-- A finite operand is rounded, and overflows or gives the integer. -/
theorem ftoiOperation_finite {n : ℤ} (hn : isNan a = false) (hi : ¬ isInfinity a)
    (h : roundToInt (roundMode o s) (extValue a) = n) :
    (n < -2147483648 ∨ 2147483647 < n → ftoiOperation o s a =
        convertedResult s false false (overflowedFlags s.draws) none (Config.freeImage s.draws))
    ∧ (-2147483648 ≤ n → n ≤ 2147483647 → ftoiOperation o s a =
        convertedInexact s (!(extValue a).exactAt 0) ⟨decide (n < 0), decide (n = 0), false, false, false⟩
          (integerImage o.op3 (BitVec.ofInt 32 n) (Config.freeImage s.draws))) := by
  have hspecial : ftoiSpecial a = false := Bool.eq_false_iff.mpr fun hs =>
    ((ftoiSpecial_iff a).mp hs).elim (by simp [hn]) hi
  rw [ftoiOperation, if_neg (by simp [dstIsReg_eq_false hd]), if_neg (by simp [hspecial]), toInteger, h]
  exact ⟨fun hout => if_pos hout, fun hlow hhigh => if_neg (by omega)⟩

end

/-- A signalled FTOI of a NaN or infinity ends like any other invalid operation. -/
theorem toIntegerInvalid_signalled (o : Operands) {s : State} (a : Extended) (h : invalidEnabled s.asr = true) :
    completeOperation o true (toIntegerInvalid s a) s
      = completeOperation o true (invalidOperation o s (.operand a)) s := by
  rw [toIntegerInvalid, invalidOperation, if_pos h, if_pos h]
  rfl

/-- One that is not signalled delivers undefined words. -/
theorem toIntegerInvalid_masked (o : Operands) {s : State} (a : Extended) (h : invalidEnabled s.asr = false) :
    completeOperation o true (toIntegerInvalid s a) s
      = deliverResult o true (convertedResult s true false (trappedFlags s.draws) none (Config.freeImage s.draws)) s := by
  rw [toIntegerInvalid, if_neg (by simp [h])]
  rfl

/-- The integer stands in the last word the destination takes. -/
theorem tripleWord_integerImage (n : MemSize) (w : Word) (fill : Triple) :
    tripleWord (integerImage (.mem n) w fill) (n.words - 1) = w := by
  cases n with
  | one => exact tripleWord_zero ..
  | two => exact (tripleWord_triple (fill.extractLsb' 64 32) w (fill.extractLsb' 0 32)).2.1
  | three =>
    change (fill.extractLsb' 32 64 ++ w).extractLsb' 0 32 = w
    ext k hk
    rw [BitVec.getElem_extractLsb', BitVec.getLsbD_append, if_pos (by omega), zero_add, BitVec.getLsbD_eq_getElem]

/-! ### FTOD to three words -/

/-- The sign nibble of an infinity or NaN says which it is. -/
theorem decClassify_decimalSpecial (digits : BitVec 72) (neg : Bool) :
    decClassify (decimalImage digits (if neg then 0b0011 else 0b0010)) = .signedNan neg
    ∧ decClassify (decimalImage digits (if neg then 0b0001 else 0b0000)) = .infinity neg := by
  have hsign (nibble : BitVec 4) : nibble.toNat = ((decimalImage digits nibble).extractLsb' 0 4).toNat := by
    rw [(decimalImage_fields digits nibble).2.1]
  refine ⟨?_, ?_⟩
  · obtain ⟨-, hnan, -⟩ := decClassify_special (hsign (if neg then 0b0011 else 0b0010))
    cases neg <;> exact hnan (by decide) (by decide)
  · obtain ⟨hinf, -, -⟩ := decClassify_special (hsign (if neg then 0b0001 else 0b0000))
    cases neg <;> exact hinf (by decide)

section
variable {o : Operands} (s : State) {a : Extended} (hd : o.op3 = .mem .three)
include hd

/-- The container of an infinity or NaN, and the flags of its sign. -/
theorem decimalSpecial_three (neg : Bool) (nibble : BitVec 4) : decimalSpecial o s neg nibble =
    convertedResult s false false ⟨neg, false, false, false, false⟩ none
      (decimalImage (Config.freeDigits s.draws) nibble) := by
  rw [decimalSpecial, ftodFlags, ftodImage, hd]

/-- FTOD treats trapping NaNs and finite operands apart. -/
theorem ftodOperation_three :
    (classify a = .trappingNan → ftodOperation o s a = toDecimalInvalid o s a)
    ∧ (isFiniteOperand a → ftodOperation o s a = toDecimal o s (extValue a)) := by
  rw [ftodOperation, if_neg (by simp [hd, dstIsReg])]
  refine ⟨fun h => by rw [h], fun h => ?_⟩
  rcases h with h | h
  · rw [show classify a = .normal from h]
  · rcases isZero_iff.mp h with h | h <;> rw [h]

/-- A nontrapping NaN and an infinity become the decimal one of the same sign. -/
theorem ftodOperation_special (h : classify a = .quietNan ∨ isInfinity a) :
    ∃ nibble, ftodOperation o s a = decimalSpecial o s (extSign a) nibble
      ∧ ∀ digits, decClassify (decimalImage digits nibble) =
        if classify a = .quietNan then .signedNan (extSign a) else .infinity (extSign a) := by
  rw [ftodOperation, if_neg (by simp [hd, dstIsReg])]
  rcases h with h | h
  · exact ⟨_, by rw [h], fun digits => ((decClassify_decimalSpecial digits (extSign a)).1).trans (if_pos h).symm⟩
  · have hc : classify a = .infinity := h
    exact ⟨_, by rw [hc], fun digits => ((decClassify_decimalSpecial digits (extSign a)).2).trans
      (if_neg (by simp [hc])).symm⟩

/-- A finite operand is rounded, and overflows or gives the container of the magnitude. -/
theorem toDecimal_three {m : ℕ} (h : roundAt (roundMode o s) 0 (extValue a) = m) :
    (10 ^ 18 ≤ m → toDecimal o s (extValue a) =
        convertedResult s false false (overflowedFlags s.draws) none (Config.freeImage s.draws))
    ∧ (m < 10 ^ 18 → toDecimal o s (extValue a) =
        convertedInexact s (!(extValue a).exactAt 0) ⟨extSign a, m == 0, false, false, false⟩
          (decimalImage (decPack m) (decSignNibble (extSign a)))) := by
  rw [toDecimal, h, ftodFlags, ftodImage, hd]
  exact ⟨fun hm => if_pos hm, fun hm => if_neg (not_le.mpr hm)⟩

end

/-- A signalled FTOD of a trapping NaN ends like any other invalid operation. -/
theorem toDecimalInvalid_signalled (o : Operands) {s : State} (a : Extended) (h : invalidEnabled s.asr = true) :
    completeOperation o false (toDecimalInvalid o s a) s
      = completeOperation o true (invalidOperation o s (.operand a)) s := by
  rw [toDecimalInvalid, invalidOperation, if_pos h, if_pos h]
  rfl

/-- One that is not signalled delivers a nontrapping NaN of positive sign. -/
theorem toDecimalInvalid_masked (o : Operands) {s : State} (a : Extended) (h : invalidEnabled s.asr = false) :
    completeOperation o false (toDecimalInvalid o s a) s
      = deliverResult o false { decimalSpecial o s false 0b0010 with is := true } s := by
  rw [toDecimalInvalid, if_neg (by simp [h])]
  rfl

/-- What a decimal infinity or NaN leaves: its container, the flags of its sign, and IS where it is set besides. -/
theorem deliverResult_decimalSpecial {o : Operands} (s : State) (hd : o.op3 = .mem .three) (neg is : Bool)
    (nibble : BitVec 4) {t : State} (ht : t = deliverResult o false { decimalSpecial o s neg nibble with is := is } s) :
    deliversWords s.modeLock t (decimalImage (Config.freeDigits s.draws) nibble)
    ∧ t.asr.n = neg ∧ t.asr.z = false ∧ t.asr.io = false ∧ t.asr.is = (s.asr.is || is) ∧ otherStickySame s.asr t.asr := by
  rw [decimalSpecial_three s hd] at ht
  subst ht
  refine ⟨deliverResult_wordsOut hd false _ s, ?_⟩
  simp [convertedResult, otherStickySame]

end Sys2Proof.Machine
end

section
/-! The obligations of the conversions to integer and decimal: O51 and O52. -/

open Sys2Proof Sys2Proof.Machine

/-- Settles O51: the model's rounding is the only one of the mode, so the integer given is the one delivered. -/
theorem floatToInteger : Obligations.FloatToInteger := by
  intro o s hd
  have hexec : exec (.ftoi o) s = .next (completeOperation o true (ftoiOperation o s (source1 o s)) s) := rfl
  refine ⟨fun hspecial => ?_, fun n hnan hinf hround => ?_⟩
  · rw [ftoiOperation_special s hd hspecial] at hexec
    refine ⟨fun hen => ?_, fun hen => ?_⟩
    · rw [toIntegerInvalid_signalled o _ hen] at hexec
      exact ⟨_, hexec, invalidOperation_signalled o _ hen⟩
    · rw [toIntegerInvalid_masked o _ hen] at hexec
      refine ⟨_, hexec, ?_⟩
      simp +contextual [convertedResult, trappedFlags, otherStickySame, regsAfter_noRegister hd]
  · obtain ⟨hint, -, hinexact⟩ := roundsTo_integer (standsFor_extValue _) rfl hround
    obtain ⟨hover, hfits⟩ := ftoiOperation_finite s hd hnan hinf hint
    refine ⟨fun hlow hhigh hpm => ?_, fun hlow hhigh hpm hne => ?_, fun hout => ?_⟩
    · rw [hfits hlow hhigh] at hexec
      obtain ⟨t, rfl, ht, hps⟩ := convertedInexact_delivered hexec hinexact hpm
      refine ⟨_, ht, rfl, decide_eq_true_iff, decide_eq_true_iff, hps, Bool.or_false _,
        fun k hk => ⟨_, deliverResult_wordsOut hk true _ s, ?_⟩⟩
      rw [hk]
      exact tripleWord_integerImage ..
    · rw [hfits hlow hhigh] at hexec
      exact convertedInexact_signalled hexec hpm (hinexact.mpr hne)
    · rw [hover hout] at hexec
      exact overflowed_end hexec

/-- Settles O52: the magnitude of that rounding, digit by digit, under the operand's sign. -/
theorem floatToDecimal : Obligations.FloatToDecimal := by
  intro o s hd
  have hexec : exec (.ftod o) s = .next (completeOperation o false (ftodOperation o s (source1 o s)) s) := rfl
  obtain ⟨htrapping, hfinite⟩ := ftodOperation_three s hd (a := source1 o s)
  refine ⟨fun hc => ?_, fun hc => ?_, fun n hnan hinf hround => ?_⟩
  · rw [htrapping hc] at hexec
    refine ⟨fun hen => ?_, fun hen => ?_⟩
    · rw [toDecimalInvalid_signalled o _ hen] at hexec
      exact ⟨_, hexec, invalidOperation_signalled o _ hen⟩
    · rw [toDecimalInvalid_masked o _ hen] at hexec
      obtain ⟨hwords, -, -, -, his, hsticky⟩ := deliverResult_decimalSpecial s hd false true 0b0010 rfl
      exact ⟨_, _, hexec, hwords, (decClassify_decimalSpecial _ false).1, (decimalImage_fields ..).1,
        his.trans (Bool.or_true _), hsticky⟩
  · obtain ⟨nibble, hop, hclass⟩ := ftodOperation_special s hd hc
    rw [hop] at hexec
    obtain ⟨hwords, hn, hz, hio, his, hsticky⟩ := deliverResult_decimalSpecial s hd (extSign (source1 o s)) false nibble rfl
    exact ⟨_, _, hexec, hwords, hclass _, (decimalImage_fields ..).1, hn, hz, hio, his.trans (Bool.or_false _), hsticky⟩
  · obtain ⟨-, hmag, hinexact⟩ := roundsTo_integer (standsFor_extValue _) rfl hround
    obtain ⟨hover, hfits⟩ := toDecimal_three s hd hmag
    rw [hfinite (isFiniteOperand_of_ordinary hnan hinf)] at hexec
    refine ⟨fun hlt hpm => ?_, fun hlt hpm hne => ?_, fun hout => ?_⟩
    · rw [hfits hlt] at hexec
      obtain ⟨t, rfl, ht, hps⟩ := convertedInexact_delivered hexec hinexact hpm
      exact ⟨_, _, ht, deliverResult_wordsOut hd false _ s, decClassify_decPack _ hlt, (decimalImage_fields ..).1, rfl,
        rfl, beq_iff_eq.trans Int.natAbs_eq_zero, hps⟩
    · rw [hfits hlt] at hexec
      obtain ⟨t, ht, hps, hecp, hio, -, hregs, hpending⟩ := convertedInexact_signalled hexec hpm (hinexact.mpr hne)
      exact ⟨t, ht, hps, hecp, hio, hregs, hpending⟩
    · rw [hover hout] at hexec
      obtain ⟨t, ht, hio, -, -, his, hsticky, hecp⟩ := overflowed_end hexec
      exact ⟨t, ht, hio, his, hsticky, hecp⟩
end

section
/-! Zeros, infinities and nontrapping NaNs in SIN, COS and ATAN (spec/46_transcendental.md R372 to R374). -/

namespace Sys2Proof.Machine

section
variable (fn : TrigFn) (o : Operands) (s : State) {a : Extended}

theorem trigOperation_zero (h : isZero a = true) : trigOperation fn o s a = trigOfZero fn o s a := by
  rcases isZero_iff.mp h with h | h <;> rw [trigOperation, h]

theorem trigOperation_infinity (h : isInfinity a) : trigOperation fn o s a = invalidOperation o s .unspecified := by
  rw [trigOperation, show classify a = .infinity from h]

theorem trigOperation_quietNan (h : classify a = .quietNan) : trigOperation fn o s a = deliverOperand o s a := by
  rw [trigOperation, h]

end

end Sys2Proof.Machine
end

section
/-! The obligation of the special cases of SIN, COS and ATAN: O57. -/

open Sys2Proof Sys2Proof.Machine

/-- Settles O57: a zero has its own results, an infinity is invalid, a nontrapping NaN is the result. -/
theorem trigSpecialCases : Obligations.TrigSpecialCases := by
  intro o s
  refine ⟨fun h => ⟨?_, ?_, ?_⟩, fun h => ⟨?_, ?_, ?_⟩, fun h => ⟨?_, ?_, ?_⟩⟩
  · exact deliversOnly_of_operation (i := .cos o) rfl rfl (trigOperation_zero .cos o s h)
  · exact deliversOnly_of_operation (i := .sin o) rfl rfl (trigOperation_zero .sin o s h)
  · exact deliversOnly_of_operation (i := .atan o) rfl rfl (trigOperation_zero .atan o s h)
  · exact invalidWith_of_operation (i := .cos o) rfl rfl (trigOperation_infinity .cos o s h)
  · exact invalidWith_of_operation (i := .sin o) rfl rfl (trigOperation_infinity .sin o s h)
  · exact invalidWith_of_operation (i := .atan o) rfl rfl (trigOperation_infinity .atan o s h)
  · exact copies_of_operation (i := .cos o) rfl rfl (trigOperation_quietNan .cos o s h)
  · exact copies_of_operation (i := .sin o) rfl rfl (trigOperation_quietNan .sin o s h)
  · exact copies_of_operation (i := .atan o) rfl rfl (trigOperation_quietNan .atan o s h)
end

section
/-! PI (spec/46_transcendental.md R375): pi rounded to each precision in each mode. -/

namespace Sys2Proof.Machine

/-- The datum PI delivers. -/
def piDatum (p : Prec) (rc : RoundMode) : Datum :=
  .finite false (roundAt rc (unitOf p piExact) piExact) (unitOf p piExact)

/-- Pi lies between 2 and 4, before and after rounding: neither overflow nor underflow. -/
theorem roundAt_piExact_log2 (p : Prec) (rc : RoundMode) :
    ((roundAt rc (unitOf p piExact) piExact).log2 : ℤ) + unitOf p piExact = 1 := by
  cases p <;> cases rc <;> decide

/-- With PM = 0 nothing is signalled and PS is set. -/
theorem finish_piExact {asr : Asr} (hpm : asr.pm = false) (p : Prec) (rc : RoundMode) :
    finish asr p rc true piExact = ⟨false, false, true, none, piDatum p rc⟩ := by
  have htop := roundAt_piExact_log2 p rc
  have hmin : precEmin p ≤ 1 := by cases p <;> decide
  have hmax : 1 ≤ precEmax p := by cases p <;> decide
  rcases finish_cases asr p rc true piExact (.inr rfl) with
    ⟨h, -⟩ | ⟨h, -⟩ | ⟨-, -, h, -⟩ | ⟨-, -, h, -⟩ | ⟨-, -, e⟩
  · omega
  · omega
  · omega
  · omega
  · rw [e, finishInexact, Bool.or_true, hpm]
    rfl

theorem encodeSingle_pi (rc : RoundMode) : encodeSingle (piDatum .single rc)
    = if rc = .nearest ∨ rc = .towardPlus then 0x40490FDB#32 else 0x40490FDA#32 := by
  cases rc <;> decide

theorem encodeDouble_pi (rc : RoundMode) : encodeDouble (piDatum .double rc)
    = 0x400921FB#32 ++ if rc = .towardPlus then 0x54442D19#32 else 0x54442D18#32 := by
  cases rc <;> decide

theorem encodeExtended_pi (rc : RoundMode) : encodeExtended (piDatum .extended rc)
    = if rc = .nearest ∨ rc = .towardPlus then 0x4000C90FDAA22168C235#80 else 0x4000C90FDAA22168C234#80 := by
  cases rc <;> decide

/-- The words of a double-extended result (spec/40_data_formats.md R188). -/
theorem extendedWords_pi (rc : RoundMode) : 0#16 ++ encodeExtended (piDatum .extended rc)
    = if rc = .nearest ∨ rc = .towardPlus then 0x00004000C90FDAA22168C235#96 else 0x00004000C90FDAA22168C234#96 := by
  cases rc <;> decide

/-- That datum, inexact. -/
def piResult (o : Operands) (s : State) : OpResult :=
  { deliverDatum o s (piDatum (destPrec o s) (roundMode o s)) with ps := true }

theorem piOperation_eq (o : Operands) {s : State} (hpm : s.asr.pm = false) : piOperation o s = piResult o s := by
  rw [piOperation, finish_piExact hpm]
  rfl

theorem exec_pi (o : Operands) {s : State} (hpm : s.asr.pm = false) :
    exec (.pi o) s = .next (deliverResult o true (piResult o s) s) :=
  exec_delivers (i := .pi o) (congrArg some (piOperation_eq o hpm)) rfl

/-- What it leaves in memory. -/
theorem piResult_image {o : Operands} {n : MemSize} (hd : o.op3 = .mem n) (s : State) : (piResult o s).image
    = encodeMemory n (Config.freeImage s.draws) (piDatum (destPrec o s) (roundMode o s)) := by
  simp only [piResult, deliverDatum, memoryImage, hd]

end Sys2Proof.Machine
end

section
/-! The obligation of PI: O58. -/

open Sys2Proof Sys2Proof.Machine

/-- Settles O58: what PI delivers is pi rounded, encoded for the destination. -/
theorem piTable : Obligations.PiTable := by
  intro o s hpm
  have hwords {n : MemSize} (hd : o.op3 = .mem n) := piResult_image hd s ▸ deliverResult_words hd (piResult o s) s
  refine ⟨_, exec_pi o hpm, Bool.or_true _, rfl, rfl, rfl, rfl, rfl, fun hd => ⟨_, hwords hd, ?_⟩,
    fun hd => ⟨_, hwords hd, ?_⟩, fun hd => ?_, fun q hd => ?_⟩
  · rw [destPrec, hd, encodeMemory, tripleWord_zero, encodeSingle_pi]
  · rw [destPrec, hd, encodeMemory, encodeDouble_pi]
    exact ⟨(tripleWord_triple ..).1, (tripleWord_triple ..).2.1⟩
  · have himage := hwords hd
    rwa [destPrec, hd, encodeMemory, extendedWords_pi] at himage
  · have hreg := deliverResult_register hd true (piResult o s) s
    have hvalue : (piResult o s).reg = encodeRegister .extended (piDatum .extended (roundMode o s)) := by
      simp only [piResult, deliverDatum, destPrec, hd]
    rwa [hvalue, encodeRegister_extended, encodeExtended_pi] at hreg
end

section
/-! The operand range of SIN, COS and ATAN (spec/46_transcendental.md R372 to R374), against the real pi/2 and 1. -/

namespace Sys2Proof.Machine

/-- Scaling drops less than one unit. -/
theorem scale_bounds (n : ℕ) (k : ℤ) : (scale n k : ℝ) ≤ n * 2 ^ k ∧ (n : ℝ) * 2 ^ k < scale n k + 1 := by
  have hpos : (0 : ℝ) ≤ n * 2 ^ k := by positivity
  have h : standsFor ⟨false, n, k, false⟩ (n * 2 ^ k) := by
    refine ⟨?_, fun _ => by simpa using hpos⟩
    rw [if_neg Bool.false_ne_true, abs_of_nonneg hpos]
    rfl
  have hb := floorAt_bounds h (q := 0) (by simp)
  rwa [zpow_zero, div_one, abs_of_nonneg hpos, Exact.floorAt, sub_zero] at hb

/-- Pi/2 between two neighbours in units of `2^-63`, with half a unit to spare below (spec/46_transcendental.md R373). -/
theorem halfPi_bounds : (14488038916154245684 + 1 / 2 : ℝ) < Real.pi / 2 * 2 ^ 63
    ∧ Real.pi / 2 * 2 ^ 63 < (14488038916154245685 : ℝ) := by
  have hlow := Real.pi_gt_d20
  have hhigh := Real.pi_lt_d20
  norm_num at hlow hhigh ⊢
  constructor <;> linarith

/-- The last significand bit of a number below 2 is not left of the point. -/
theorem extValue_exp_nonpos {v : Extended} (h : isNumber v) (hle : |extReal v| < 2) : (extValue v).exp ≤ 0 := by
  obtain ⟨hpos, -⟩ := h.mant_bounds
  rw [abs_extReal, magnitude] at hle
  by_contra hexp
  have h1 : (1 : ℝ) ≤ (extValue v).mant := Nat.one_le_cast.mpr hpos
  have h2 : (2 : ℝ) ^ (1 : ℤ) ≤ 2 ^ (extValue v).exp := zpow_le_zpow_right₀ one_le_two (by omega)
  have h3 := mul_le_mul h1 h2 (by positivity) (by positivity)
  norm_num at h3
  linarith

/-- A magnitude of at most 64 significant bits is whole units of `2^-63`, or below 1. -/
theorem wholeUnits_or_lt_one {x : Exact} (hlt : x.mant < 2 ^ 64) :
    (∃ n : ℕ, scale x.mant (x.exp + 255) = n * 2 ^ 192 ∧ magnitude x = n / 2 ^ 63)
    ∨ (scale x.mant (x.exp + 255) < 2 ^ 255 ∧ magnitude x < 1) := by
  rcases le_or_gt (-63) x.exp with hexp | hexp
  · obtain ⟨k, hk⟩ := Int.le.dest hexp
    refine .inl ⟨x.mant * 2 ^ k, ?_, ?_⟩
    · rw [show x.exp + 255 = ((k + 192 : ℕ) : ℤ) by omega, scale_natCast, pow_add, mul_assoc]
    · rw [magnitude, ← hk, zpow_add₀ two_ne_zero, zpow_natCast]
      push_cast
      norm_num
      ring
  · have hone : magnitude x < 1 := by
      have hm : (x.mant : ℝ) < 2 ^ 64 := by exact_mod_cast hlt
      calc (x.mant : ℝ) * 2 ^ x.exp < 2 ^ 64 * 2 ^ x.exp := mul_lt_mul_of_pos_right hm (by positivity)
        _ ≤ 2 ^ 64 * (2 : ℝ) ^ (-64 : ℤ) :=
          mul_le_mul_of_nonneg_left (zpow_le_zpow_right₀ one_le_two (by omega)) (by positivity)
        _ = 1 := by norm_num
    refine .inr ⟨?_, hone⟩
    have hb := (scale_bounds x.mant (x.exp + 255)).1
    rw [zpow_add₀ two_ne_zero, ← mul_assoc] at hb
    have hc := mul_lt_mul_of_pos_right hone (by positivity : (0 : ℝ) < 2 ^ (255 : ℤ))
    rw [one_mul] at hc
    exact_mod_cast hb.trans_lt hc

/-- Such a magnitude is above pi/2 when its leading bits are above those of pi. -/
theorem aboveHalfPi_iff {x : Exact} (hlt : x.mant < 2 ^ 64) : aboveHalfPi x = true ↔ Real.pi / 2 < magnitude x := by
  obtain ⟨hlow, hhigh⟩ := halfPi_bounds
  rw [aboveHalfPi, decide_eq_true_iff, piMantissa]
  rcases wholeUnits_or_lt_one hlt with ⟨n, hscale, hvalue⟩ | ⟨hscale, hone⟩
  · rw [hscale, hvalue, lt_div_iff₀ (by norm_num)]
    constructor
    · intro h
      have hn : 14488038916154245685 ≤ n := by omega
      have hn' : (14488038916154245685 : ℝ) ≤ n := by exact_mod_cast hn
      linarith
    · intro h
      have hn : (14488038916154245684 : ℝ) < n := by linarith
      have hn' : 14488038916154245684 < n := by exact_mod_cast hn
      omega
  · have hpi := Real.pi_gt_three
    exact iff_of_false (by omega) (by linarith)

/-- One that is not above pi/2 stays away from it (spec/46_transcendental.md R373: no operand equals pi/2). -/
theorem magnitude_gap {x : Exact} (hlt : x.mant < 2 ^ 64) (hle : magnitude x ≤ Real.pi / 2) :
    magnitude x + 1 / 2 ^ 64 ≤ Real.pi / 2 := by
  obtain ⟨hlow, hhigh⟩ := halfPi_bounds
  rcases wholeUnits_or_lt_one hlt with ⟨n, -, hvalue⟩ | ⟨-, hone⟩
  · rw [hvalue, div_le_iff₀ (by norm_num)] at hle
    have hn : (n : ℝ) < 14488038916154245685 := by linarith
    have hn' : n ≤ 14488038916154245684 := by
      have : n < 14488038916154245685 := by exact_mod_cast hn
      omega
    have hn'' : (n : ℝ) ≤ 14488038916154245684 := by exact_mod_cast hn'
    rw [hvalue]
    norm_num at hlow ⊢
    linarith
  · have hpi := Real.pi_gt_three
    norm_num at hone ⊢
    linarith

/-- A magnitude is above 1 when its leading bit is above the point, or just left of it and not alone. -/
theorem aboveOne_iff {x : Exact} (h0 : 0 < x.mant) : aboveOne x = true ↔ 1 < magnitude x := by
  have hlog : (2 : ℝ) ^ x.top = (2 ^ x.mant.log2 : ℕ) * 2 ^ x.exp := by
    rw [Exact.top, zpow_add₀ two_ne_zero, zpow_natCast]
    push_cast
    rfl
  have hpos : (0 : ℝ) < 2 ^ x.exp := by positivity
  have hle : 2 ^ x.mant.log2 ≤ x.mant := Nat.log2_self_le h0.ne'
  have hbelow : (2 : ℝ) ^ x.top ≤ magnitude x := by
    rw [hlog, magnitude]
    exact mul_le_mul_of_nonneg_right (by exact_mod_cast hle) hpos.le
  have habove : x.top < 0 ↔ magnitude x < 1 := by
    rw [Exact.top, log2_add_lt_iff h0, zpow_zero]
    rfl
  simp only [aboveOne, Bool.or_eq_true, Bool.and_eq_true, decide_eq_true_iff]
  rcases lt_trichotomy x.top 0 with h | h | h
  · have := habove.mp h
    exact iff_of_false (by omega) (by linarith)
  · rw [h, zpow_zero] at hlog
    rw [hlog, magnitude, mul_lt_mul_iff_left₀ hpos, Nat.cast_lt]
    omega
  · have h1 : (2 : ℝ) ^ (1 : ℤ) ≤ 2 ^ x.top := zpow_le_zpow_right₀ one_le_two (by omega)
    exact iff_of_true (.inl h) (by norm_num at h1; linarith)

/-- The test of the operand range is the real one. -/
theorem trigOutside_iff (fn : TrigFn) {v : Extended} (h : isNumber v) :
    trigOutside fn (extValue v) = true ↔ trigLimit fn < |extReal v| := by
  obtain ⟨h0, hlt⟩ := h.mant_bounds
  rw [abs_extReal]
  cases fn
  · exact aboveHalfPi_iff hlt
  · exact aboveHalfPi_iff hlt
  · exact aboveOne_iff h0

theorem trigLimit_lt_two (fn : TrigFn) : trigLimit fn < 2 := by
  have := Real.pi_lt_d2
  cases fn <;> simp only [trigLimit] <;> norm_num at * <;> linarith

end Sys2Proof.Machine
end

section
/-! What `Finish` delivers of a magnitude below 1 when the exceptions are masked: at most one unit in the last place away,
and not above 1 (spec/41_operation_model.md R240, R243). -/

namespace Sys2Proof.Machine

/-- Rounding goes to one of the two neighbours, and not past a whole number of units. -/
theorem roundAt_bounds (rc : RoundMode) {z : Exact} {x : ℝ} {q : ℤ} (h : standsFor z x)
    (hq : z.sticky = true → z.exp ≤ q) :
    (roundAt rc q z : ℝ) * 2 ^ q - 2 ^ q ≤ |x| ∧ |x| ≤ roundAt rc q z * 2 ^ q + 2 ^ q
    ∧ (|x| < 1 → q ≤ 0 → (roundAt rc q z : ℝ) * 2 ^ q ≤ 1) := by
  have hpos : (0 : ℝ) < 2 ^ q := by positivity
  obtain ⟨hlow, hhigh⟩ := floorAt_bounds h hq
  rw [le_div_iff₀ hpos] at hlow
  rw [div_lt_iff₀ hpos] at hhigh
  have hup : roundAt rc q z ≤ z.floorAt q + 1 := by
    have := Bool.toNat_le (roundsUp rc q z)
    unfold roundAt
    omega
  have hdown : z.floorAt q ≤ roundAt rc q z := Nat.le_add_right ..
  have hup' : (roundAt rc q z : ℝ) ≤ z.floorAt q + 1 := by exact_mod_cast hup
  have hdown' : (z.floorAt q : ℝ) ≤ roundAt rc q z := by exact_mod_cast hdown
  have hupq := mul_le_mul_of_nonneg_right hup' hpos.le
  have hdownq := mul_le_mul_of_nonneg_right hdown' hpos.le
  refine ⟨by linarith, by linarith, fun hx hq0 => ?_⟩
  obtain ⟨k, hk⟩ := Int.eq_ofNat_of_zero_le (neg_nonneg.mpr hq0)
  obtain rfl : q = -(k : ℤ) := by omega
  rw [zpow_neg, zpow_natCast] at hlow ⊢
  rw [← div_eq_mul_inv] at hlow ⊢
  have hfloor : z.floorAt (-(k : ℤ)) < 2 ^ k := by
    have := (div_lt_iff₀ (by positivity)).mp (hlow.trans_lt hx)
    rw [one_mul] at this
    exact_mod_cast this
  rw [div_le_one (by positivity)]
  exact_mod_cast hup.trans hfloor

/-- A carry moves the leading bit by one place. -/
theorem roundedTop_le {z : Exact} {x : ℝ} (h : standsFor z x) (hx : x ≠ 0) (p : Prec) (rc : RoundMode) :
    ((roundAt rc (unitOf p z) z).log2 : ℤ) + unitOf p z ≤ z.top + 1 := by
  obtain ⟨hpos, hle⟩ := roundAt_unitOf_bounds h hx p rc
  have hlog : (roundAt rc (unitOf p z) z).log2 ≤ precBits p :=
    (Nat.log2_lt hpos.ne').mpr (hle.trans_lt (Nat.pow_lt_pow_right (by decide) (by omega))) |> Nat.lt_succ_iff.mp
  have hunit : unitOf p z = z.top - precBits p + 1 := rfl
  omega

/-- With underflow masked, `Finish` of a magnitude below 1 rounds it to a unit that is one of the last place, or a
smaller one. -/
theorem finish_masked {asr : Asr} (hum : asr.um = false) (p : Prec) (rc : RoundMode)
    (forced : Bool) {z : Exact} {x : ℝ} (h : standsFor z x) (hx : x ≠ 0) (hlt : |x| < 1) :
    ∃ q, (finish asr p rc forced z).value = datumOf z.neg (roundAt rc q z) q
      ∧ q ≤ max z.top (precEmin p) - precBits p + 1 ∧ (z.sticky = true → z.exp ≤ q) := by
  have htop : z.top < 0 := h.top_lt hx (by rwa [zpow_zero])
  have hcarry := roundedTop_le h hx p rc
  have hmax : 1 ≤ precEmax p := by cases p <;> decide
  have hsticky : z.sticky = true → z.exp ≤ unitOf p z := fun hs => by
    have := h.exp_lt_unitOf p hs
    omega
  have hunit : unitOf p z = z.top - precBits p + 1 := rfl
  have hleast : precLeast p = precEmin p - precBits p + 1 := rfl
  rcases finish_cases asr p rc forced z (.inl (h.mant_ne_zero hx)) with
    ⟨hc, -⟩ | ⟨hc, -⟩ | ⟨-, -, -, hc, -⟩ | ⟨-, hlow, -, -, e⟩ | ⟨-, -, e⟩
  · omega
  · omega
  · simp [hum] at hc
  · rw [e, (finishInexact_spec ..).1]
    exact ⟨_, rfl, by omega, fun hs => by have := hsticky hs; omega⟩
  · obtain ⟨hpos, -⟩ := roundAt_unitOf_bounds h hx p rc
    rw [e, (finishInexact_spec ..).1]
    exact ⟨_, (if_neg hpos.ne').symm, by omega, hsticky⟩

/-- An operation that is inexact whatever the outcome, and signals nothing, does what it does with the masks cleared. -/
theorem finish_untrapped {asr : Asr} {p : Prec} {rc : RoundMode} {z : Exact}
    (h : (finish asr p rc true z).trap = none) :
    (finish asr p rc true z).ps = true
    ∧ (finish asr p rc true z).value = (finish (masksCleared asr) p rc true z).value := by
  have hinexact (asr' : Asr) {os us : Bool} (info : TrapInfo) (r : Datum) :
      (finishInexact asr true os us info r).ps = true
      ∧ (finishInexact asr true os us info r).value = (finishInexact asr' true os us info r).value := by
    obtain ⟨hvalue, -, -, hps, -⟩ := finishInexact_spec asr true os us info r
    exact ⟨hps, hvalue.trans (finishInexact_spec ..).1.symm⟩
  unfold finish at h ⊢
  simp only [masksCleared, Bool.false_eq_true, if_false, Bool.or_true] at h ⊢
  split_ifs at h ⊢ 
  · exact hinexact _ _ _
  · exact hinexact _ _ _
  · exact hinexact _ _ _
  · exact hinexact _ _ _

end Sys2Proof.Machine
end

section
/-! The error bound of SIN, COS and ATAN (spec/46_transcendental.md R371) in real numbers, and that the model's fallback, the
lower end of the enclosure, meets it (log 32). -/

namespace Sys2Proof.Machine

/-! ### The test, in real numbers -/

/-- The result `y`, its sign taken relative to the function's, is within the error bound of some number in the enclosure,
at most 1 for SIN and COS, and not negative for COS (spec/46_transcendental.md R371). -/
def withinBound (fn : TrigFn) (x : Exact) (p : Prec) (rc : RoundMode) (y : ℝ) : Prop :=
  let v := trigEnclosure fn x
  let slack := boundUlps rc * (2 : ℝ) ^ boundUnit p ((v.1.log2 : ℤ) + v.2.2)
  y - slack < v.2.1 * (2 : ℝ) ^ v.2.2 ∧ v.1 * (2 : ℝ) ^ v.2.2 < y + slack
    ∧ (fn = .sin ∨ fn = .cos → |y| ≤ 1) ∧ (fn = .cos → 0 ≤ y)

/-- A whole number of units of a smaller weight. -/
theorem inUnits_mul (m : ℤ) {e g : ℤ} (h : g ≤ e) : (inUnits m e g : ℝ) * 2 ^ g = m * 2 ^ e := by
  obtain ⟨k, rfl⟩ := Int.le.dest h
  rw [inUnits, add_sub_cancel_left, Int.toNat_natCast, zpow_add₀ two_ne_zero, zpow_natCast]
  push_cast
  ring

/-- The test compares in a unit that divides everything, so it compares the numbers. -/
theorem trigWithin_iff (fn : TrigFn) (x : Exact) (p : Prec) (rc : RoundMode) (m e : ℤ) :
    trigWithin fn x p rc m e = true ↔ withinBound fn x p rc (signFactor (trigSign fn x) * (m * 2 ^ e)) := by
  simp only [trigWithin, withinBound]
  obtain ⟨lower, upper, ve⟩ := trigEnclosure fn x
  generalize boundUnit p ((lower.log2 : ℤ) + ve) = unit
  obtain ⟨g, hg⟩ : ∃ g, g = min (min e ve) (min unit 0) := ⟨_, rfl⟩
  simp only [← hg]
  have hpos : (0 : ℝ) < 2 ^ g := by positivity
  have lt_iff (a b : ℤ) : a < b ↔ (a : ℝ) * 2 ^ g < b * 2 ^ g := by
    rw [mul_lt_mul_iff_left₀ hpos, Int.cast_lt]
  have le_iff (a b : ℤ) : a ≤ b ↔ (a : ℝ) * 2 ^ g ≤ b * 2 ^ g := by
    rw [mul_le_mul_iff_left₀ hpos, Int.cast_le]
  have hr : (inUnits (if trigSign fn x = true then -m else m) e g : ℝ) * 2 ^ g
      = signFactor (trigSign fn x) * (m * 2 ^ e) := by
    rw [inUnits_mul _ (by omega)]
    cases trigSign fn x <;> simp [signFactor]
  have hupper := inUnits_mul upper (e := ve) (g := g) (by omega)
  have hlower := inUnits_mul lower (e := ve) (g := g) (by omega)
  have hslack := inUnits_mul (boundUlps rc) (e := unit) (g := g) (by omega)
  have hone := inUnits_mul 1 (e := 0) (g := g) (by omega)
  simp only [Int.cast_natCast, Int.cast_one, zpow_zero, mul_one] at hupper hlower hslack hone
  generalize inUnits (if trigSign fn x = true then -m else m) e g = r at hr ⊢
  rw [Bool.and_eq_true, Bool.and_eq_true, decide_eq_true_iff, decide_eq_true_iff, lt_iff, lt_iff, and_assoc]
  push_cast
  rw [sub_mul, add_mul, hr, hslack, hupper, hlower]
  refine and_congr_right fun _ => and_congr_right fun _ => ?_
  have hle1 : r ≤ inUnits 1 0 g ↔ signFactor (trigSign fn x) * (m * 2 ^ e) ≤ 1 := by rw [le_iff, hr, hone]
  have hge1 : -inUnits 1 0 g ≤ r ↔ -1 ≤ signFactor (trigSign fn x) * (m * 2 ^ e) := by
    rw [le_iff, Int.cast_neg, neg_mul, hr, hone]
  have hge0 : 0 ≤ r ↔ 0 ≤ signFactor (trigSign fn x) * (m * 2 ^ e) := by rw [le_iff, hr, Int.cast_zero, zero_mul]
  cases fn
  · simp [hle1, hge1, abs_le, -abs_mul, and_comm]
  · simp only [Bool.and_eq_true, decide_eq_true_iff, hge0, hle1, or_true, forall_true_left, abs_le]
    exact ⟨fun ⟨h0, h1⟩ => ⟨⟨by linarith, h1⟩, h0⟩, fun ⟨⟨_, h1⟩, h0⟩ => ⟨h0, h1⟩⟩
  · simp

/-- A result within the bound is a number, and the bound holds of its value. -/
theorem withinBound_of_datumWithin {fn : TrigFn} {x : Exact} {p : Prec} {rc : RoundMode} {d : Datum}
    (h : datumWithin fn x p rc d = true) : withinBound fn x p rc (signFactor (trigSign fn x) * datumReal d) := by
  cases d with
  | zero neg => simpa [datumReal] using (trigWithin_iff fn x p rc 0 0).mp h
  | finite neg sig lsb =>
    have := (trigWithin_iff ..).mp h
    rwa [show ((if neg then -(sig : ℤ) else sig : ℤ) : ℝ) = signFactor neg * sig from signedUnits_cast neg sig] at this
  | nan neg j f => cases h
  | generatedNan => cases h
  | infinity neg => cases h

/-- Conversely for a magnitude with a sign. -/
theorem datumWithin_datumOf {fn : TrigFn} {x : Exact} {p : Prec} {rc : RoundMode} {neg : Bool} {u : ℕ} {q : ℤ}
    (h : withinBound fn x p rc (signFactor (trigSign fn x) * datumReal (datumOf neg u q))) :
    datumWithin fn x p rc (datumOf neg u q) = true := by
  unfold datumOf at h ⊢
  split at h
  · next h0 =>
    rw [if_pos h0]
    exact (trigWithin_iff fn x p rc 0 0).mpr (by simpa [datumReal] using h)
  · next h0 =>
    rw [if_neg h0]
    refine (trigWithin_iff ..).mpr ?_
    rwa [show ((if neg then -(u : ℤ) else u : ℤ) : ℝ) = signFactor neg * u from signedUnits_cast neg u]

/-! ### The fallback -/

/-- The bound on a sine is 1, in units of the enclosure. -/
theorem sineBound_mul {x : Exact} (h : x.exp ≤ 0) :
    ((2 ^ (seriesBits - x.exp).toNat : ℕ) : ℝ) * 2 ^ (x.exp - seriesBits) = 1 := by
  obtain ⟨k, hk⟩ := Int.le.dest (show x.exp ≤ seriesBits by omega)
  rw [show (seriesBits - x.exp).toNat = k by omega, show x.exp - seriesBits = -(k : ℤ) by omega, zpow_neg, zpow_natCast,
    Nat.cast_pow, Nat.cast_ofNat]
  field_simp

/-- The enclosure ends at 1 or below. -/
theorem trigEnclosure_le_one (fn : TrigFn) {v : Extended} (h : isNumber v) (hle : |extReal v| ≤ trigLimit fn) :
    ((trigEnclosure fn (extValue v)).2.1 : ℝ) * 2 ^ (trigEnclosure fn (extValue v)).2.2 ≤ 1 := by
  have hexp := extValue_exp_nonpos h (hle.trans_lt (trigLimit_lt_two fn))
  obtain ⟨-, -, hend⟩ := seriesEnds_ordered (seriesUnits fn (extValue v))
  have hends : ((seriesEnds (seriesUnits fn (extValue v))).2 : ℝ) ≤ 2 ^ (192 : ℤ) := by exact_mod_cast hend
  have hbits : (seriesBits : ℤ) = 192 := rfl
  rw [abs_extReal, magnitude] at hle
  generalize extValue v = x at *
  cases fn with
  | sin =>
    have hmin : min (x.mant * (seriesEnds (seriesUnits .sin x)).2) (2 ^ (seriesBits - x.exp).toNat)
        ≤ 2 ^ (seriesBits - x.exp).toNat := min_le_right _ _
    refine le_trans (mul_le_mul_of_nonneg_right (Nat.cast_le.mpr hmin) (by positivity)) (sineBound_mul hexp).le
  | cos =>
    refine le_trans (mul_le_mul_of_nonneg_right hends (by positivity)) ?_
    rw [show (trigEnclosure .cos x).2.2 = -192 from rfl, ← zpow_add₀ two_ne_zero]
    norm_num
  | atan =>
    have hshift : (2 : ℝ) ^ x.exp = 2 ^ (192 : ℤ) * 2 ^ (x.exp - seriesBits) := by
      rw [hbits, ← zpow_add₀ two_ne_zero]
      congr 1
      ring
    refine le_trans ?_ hle
    simp only [trigEnclosure, Nat.cast_mul]
    rw [hshift, mul_assoc]
    gcongr

theorem signFactor_mul_self (neg : Bool) : signFactor neg * signFactor neg = 1 := by
  cases neg <;> simp [signFactor]

/-- The number the fallback stands for: right above the lower end of the enclosure. -/
noncomputable def enclosedReal (fn : TrigFn) (x : Exact) : ℝ :=
  signFactor (trigSign fn x) * (((trigEnclosure fn x).1 + 1 / 2) * 2 ^ (trigEnclosure fn x).2.2)

theorem abs_enclosedReal (fn : TrigFn) (x : Exact) :
    |enclosedReal fn x| = ((trigEnclosure fn x).1 + 1 / 2) * 2 ^ (trigEnclosure fn x).2.2 := by
  rw [enclosedReal, abs_mul, abs_signFactor, one_mul, abs_of_pos (by positivity)]

theorem enclosedReal_ne_zero (fn : TrigFn) (x : Exact) : enclosedReal fn x ≠ 0 := by
  rw [← abs_pos, abs_enclosedReal]
  positivity

theorem standsFor_enclosedResult (fn : TrigFn) {x : Exact} (hlow : 2 ^ 68 ≤ (trigEnclosure fn x).1) :
    standsFor (enclosedResult fn x) (enclosedReal fn x) := by
  have hpos : (0 : ℝ) < 2 ^ (trigEnclosure fn x).2.2 := by positivity
  have hmag : (0 : ℝ) < ((trigEnclosure fn x).1 + 1 / 2) * 2 ^ (trigEnclosure fn x).2.2 := by positivity
  refine ⟨?_, fun _ => ?_⟩
  · simp only [enclosedResult, if_true, magnitude]
    rw [abs_enclosedReal]
    exact ⟨hlow, mul_lt_mul_of_pos_right (by linarith) hpos, mul_lt_mul_of_pos_right (by linarith) hpos⟩
  · simp only [enclosedResult, enclosedReal, signFactor]
    cases trigSign fn x
    · simpa using hmag.le
    · simpa using hmag

/-- The bound is measured in units no smaller than those of the destination. -/
theorem le_boundUnit (p : Prec) (top : ℤ) : max top (precEmin p) - precBits p + 1 ≤ boundUnit p top := by
  cases p <;> simp only [boundUnit, boundPrec, precEmin, precEmax, precBits] <;> omega

/-- That number is inside the enclosure. -/
theorem enclosedReal_mem (fn : TrigFn) {x : Exact} (hlt : (trigEnclosure fn x).1 < (trigEnclosure fn x).2.1) :
    (trigEnclosure fn x).1 * (2 : ℝ) ^ (trigEnclosure fn x).2.2 < |enclosedReal fn x|
    ∧ |enclosedReal fn x| < (trigEnclosure fn x).2.1 * (2 : ℝ) ^ (trigEnclosure fn x).2.2 := by
  have hpos : (0 : ℝ) < 2 ^ (trigEnclosure fn x).2.2 := by positivity
  have hsucc : ((trigEnclosure fn x).1 : ℝ) + 1 ≤ (trigEnclosure fn x).2.1 := by exact_mod_cast hlt
  rw [abs_enclosedReal]
  exact ⟨mul_lt_mul_of_pos_right (by linarith) hpos, mul_lt_mul_of_pos_right (by linarith) hpos⟩

/-- A magnitude one unit or less away from a number of the enclosure, and not above 1, is within the bound. -/
theorem withinBound_of_near {fn : TrigFn} {x : Exact} {p : Prec} (rc : RoundMode) {q : ℤ} {y w : ℝ}
    (hq : q ≤ boundUnit p ((trigEnclosure fn x).1.log2 + (trigEnclosure fn x).2.2))
    (hlow : (trigEnclosure fn x).1 * (2 : ℝ) ^ (trigEnclosure fn x).2.2 < w)
    (hhigh : w < (trigEnclosure fn x).2.1 * (2 : ℝ) ^ (trigEnclosure fn x).2.2)
    (hdown : y - 2 ^ q ≤ w) (hup : w ≤ y + 2 ^ q) (h0 : 0 ≤ y) (h1 : y ≤ 1) : withinBound fn x p rc y := by
  have hslack : (2 : ℝ) ^ q
      ≤ boundUlps rc * 2 ^ boundUnit p ((trigEnclosure fn x).1.log2 + (trigEnclosure fn x).2.2) := by
    have hulps : (1 : ℝ) ≤ boundUlps rc := by cases rc <;> simp [boundUlps]
    exact (zpow_le_zpow_right₀ one_le_two hq).trans (le_mul_of_one_le_left (by positivity) hulps)
  exact ⟨by linarith, by linarith, fun _ => (abs_of_nonneg h0).trans_le h1, fun _ => h0⟩

/-- What the fallback delivers is within the bound. -/
theorem datumWithin_enclosedResult (fn : TrigFn) {v : Extended} (h : isNumber v) (hle : |extReal v| ≤ trigLimit fn)
    (s : State) (p : Prec) (rc : RoundMode) :
    datumWithin fn (extValue v) p rc (maskedResult s p rc (enclosedResult fn (extValue v))) = true := by
  obtain ⟨hlow, hlt⟩ := trigEnclosure_ordered fn (extValue v) h.mant_bounds.1
    (extValue_exp_nonpos h (hle.trans_lt (trigLimit_lt_two fn)))
  obtain ⟨habove, hbelow⟩ := enclosedReal_mem fn hlt
  have hstands := standsFor_enclosedResult fn hlow
  have hne := enclosedReal_ne_zero fn (extValue v)
  have hx1 := hbelow.trans_le (trigEnclosure_le_one fn h hle)
  obtain ⟨q, hvalue, hq, hsticky⟩ := finish_masked (asr := masksCleared s.asr) rfl p rc true hstands hne hx1
  have hq0 : q ≤ 0 := by
    have htop := hstands.top_lt hne (by rwa [zpow_zero])
    have hmin : precEmin p ≤ 0 := by cases p <;> decide
    obtain ⟨hp, -⟩ := precBits_bounds p
    omega
  obtain ⟨hdown, hup, hle1⟩ := roundAt_bounds rc hstands hsticky
  rw [maskedResult, hvalue]
  refine datumWithin_datumOf ?_
  have hsign : signFactor (trigSign fn (extValue v)) * signFactor (enclosedResult fn (extValue v)).neg = 1 :=
    signFactor_mul_self _
  rw [(datumOf_spec ..).1, signedUnits_cast, mul_assoc, ← mul_assoc (signFactor _), hsign, one_mul]
  exact withinBound_of_near rc (hq.trans (le_boundUnit p _)) habove hbelow hdown hup (by positivity) (hle1 hx1 hq0)

/-- So the internal result is one whose delivery is within the bound, drawn or not (log 32). -/
theorem datumWithin_internalResult (fn : TrigFn) {v : Extended} (h : isNumber v) (hle : |extReal v| ≤ trigLimit fn)
    (s : State) (p : Prec) (rc : RoundMode) :
    datumWithin fn (extValue v) p rc (maskedResult s p rc (internalResult fn v p rc s)) = true := by
  unfold internalResult
  split
  · next hdrawn => exact hdrawn
  · exact datumWithin_enclosedResult fn h hle s p rc

/-! ### The instructions -/

/-- SIN, COS and ATAN of a number are invalid outside the range and finish within the bound inside it. -/
theorem trig_of_number {fn : TrigFn} {i : Instr} {o : Operands} {s : State}
    (hop : operationOf i s = some (trigOperation fn o s (source1 o s))) (hk : keepsDr i = true) (ho : i.operands = o)
    (h : isNumber (source1 o s)) :
    (trigLimit fn < |extReal (source1 o s)| → invalidWith i s .unspecified)
    ∧ (|extReal (source1 o s)| ≤ trigLimit fn → finishesWithin fn i o s) := by
  have hnormal : trigOperation fn o s (source1 o s) = if trigOutside fn (extValue (source1 o s)) then
      invalidOperation o s .unspecified else trigOfNumber fn o s (source1 o s) := by
    rw [trigOperation, show classify (source1 o s) = .normal from h]
  refine ⟨fun hout => ?_, fun hin => ?_⟩
  · rw [if_pos ((trigOutside_iff fn h).mpr hout), ← ho] at hnormal
    exact invalidWith_of_operation hop hk (ho ▸ hnormal)
  · rw [if_neg (mt (trigOutside_iff fn h).mp (not_lt.mpr hin))] at hnormal
    refine ⟨internalResult fn (source1 o s) (destPrec o s) (roundMode o s) s, ?_, fun htrap => ?_⟩
    · rw [exec_operation hop, hk, ho, hnormal]
      rfl
    · obtain ⟨hps, hvalue⟩ := finish_untrapped htrap
      have hwithin := datumWithin_internalResult fn h hin s (destPrec o s) (roundMode o s)
      rw [maskedResult, ← hvalue] at hwithin
      obtain ⟨-, -, hone, hnonneg⟩ := withinBound_of_datumWithin hwithin
      refine ⟨hps, hwithin, fun hfn => ?_, fun hfn => ?_⟩
      · have hy := hnonneg hfn
        subst hfn
        simpa [trigSign, signFactor] using hy
      · have hy := hone hfn
        rwa [abs_mul, abs_signFactor, one_mul] at hy

end Sys2Proof.Machine
end

section
/-! The obligation of the range and the error bound: O56. -/

open Sys2Proof Sys2Proof.Machine

/-- Settles O56: the test of the range is exact, and both the drawn result and the fallback are within the bound. -/
theorem trigRange : Obligations.TrigRange := by
  intro fn i o s h
  refine ⟨fun hi => ?_, fun hfn hi => ?_⟩
  · rcases hi with ⟨rfl, rfl⟩ | ⟨rfl, rfl⟩
    · exact trig_of_number (fn := .sin) (i := .sin o) rfl rfl rfl h
    · exact trig_of_number (fn := .cos) (i := .cos o) rfl rfl rfl h
  · subst hfn hi
    exact trig_of_number (fn := .atan) (i := .atan o) rfl rfl rfl h
end

section
/-! The power series of the sine and the cosine, and Euler's series of the arc tangent, cut short, against the functions
(spec/46_transcendental.md R371; log 32). -/

namespace Sys2Proof.Machine

/-! ### Sine and cosine -/

/-- The alternating sum that `circularSeries` computes, in real numbers: each term is the one before times
`y/((d+1)(d+2))`. -/
noncomputable def circularSum (y : ℝ) : ℕ → ℕ → ℝ → ℝ
  | 0, _, _ => 0
  | k + 1, d, term => term - circularSum y k (d + 2) (term * y / ((d + 1) * (d + 2) : ℕ))

theorem circularSum_mul (y : ℝ) (k d : ℕ) (a c : ℝ) : circularSum y k d (a * c) = a * circularSum y k d c := by
  induction k generalizing d c with
  | zero => simp [circularSum]
  | succ k ih =>
    simp only [circularSum]
    rw [mul_assoc a, mul_div_assoc a, ih, mul_sub]

/-- From the power `x^d/d!` on it is every other term of the exponential series, with alternating signs. -/
theorem circularSum_eq (x : ℝ) (k d : ℕ) : circularSum (x ^ 2) k d (x ^ d / d.factorial)
    = ∑ j ∈ Finset.range k, (-1) ^ j * (x ^ (d + 2 * j) / (d + 2 * j).factorial) := by
  induction k generalizing d with
  | zero => simp [circularSum]
  | succ k ih =>
    have hnext : x ^ d / d.factorial * x ^ 2 / ((d + 1) * (d + 2) : ℕ) = x ^ (d + 2) / (d + 2).factorial := by
      rw [Nat.factorial_succ, Nat.factorial_succ]
      push_cast
      field_simp
      ring
    rw [circularSum, hnext, ih, Finset.sum_range_succ', sub_eq_neg_add, ← Finset.sum_neg_distrib]
    congr 1
    · refine Finset.sum_congr rfl fun j _ => ?_
      rw [show d + 2 * (j + 1) = d + 2 + 2 * j by ring, pow_succ]
      ring
    · simp

/-- Twice as many terms of the exponential series of `x*I` are the two alternating sums. -/
theorem expSum_eq (x : ℝ) (k : ℕ) :
    ∑ m ∈ Finset.range (2 * k), ((x : ℂ) * Complex.I) ^ m / m.factorial
      = (circularSum (x ^ 2) k 0 1 : ℝ) + (circularSum (x ^ 2) k 1 x : ℝ) * Complex.I := by
  have h0 := circularSum_eq x k 0
  have h1 := circularSum_eq x k 1
  simp only [pow_zero, pow_one, Nat.factorial_zero, Nat.factorial_one, Nat.cast_one, div_one] at h0 h1
  rw [h0, h1]
  clear h0 h1
  induction k with
  | zero => simp
  | succ k ih =>
    have hI : Complex.I ^ (2 * k) = (-1) ^ k := by rw [pow_mul, Complex.I_sq]
    rw [mul_add_one, Finset.sum_range_succ, Finset.sum_range_succ, ih, Finset.sum_range_succ, Finset.sum_range_succ,
      mul_pow, mul_pow, pow_succ Complex.I, hI, zero_add, add_comm 1 (2 * k)]
    push_cast
    ring

/-- The two sums are as near to the cosine and the sine as the exponential series is to the exponential. -/
theorem circularSum_near {x : ℝ} (k : ℕ) (hx : |x| / (2 * k).succ ≤ 1 / 2) :
    |circularSum (x ^ 2) k 0 1 - Real.cos x| ≤ |x| ^ (2 * k) / (2 * k).factorial * 2
    ∧ |circularSum (x ^ 2) k 1 x - Real.sin x| ≤ |x| ^ (2 * k) / (2 * k).factorial * 2 := by
  have hnorm : ‖(x : ℂ) * Complex.I‖ = |x| := by simp
  have h := Complex.exp_bound' (x := x * Complex.I) (n := 2 * k) (by rwa [hnorm])
  rw [hnorm, expSum_eq, Complex.exp_mul_I, ← Complex.ofReal_cos, ← Complex.ofReal_sin] at h
  have hre := (Complex.abs_re_le_norm _).trans h
  have him := (Complex.abs_im_le_norm _).trans h
  simp only [Complex.sub_re, Complex.add_re, Complex.re_ofReal_mul, Complex.ofReal_re, Complex.I_re, mul_zero, add_zero,
    Complex.sub_im, Complex.add_im, Complex.im_ofReal_mul, Complex.ofReal_im, Complex.I_im, mul_one, zero_add] at hre him
  exact ⟨(abs_sub_comm _ _).trans_le hre, (abs_sub_comm _ _).trans_le him⟩

/-! ### Arc tangent -/

/-- The sum that `eulerSeries` computes, in real numbers: each term is the one before times `y*2n/(2n+1)`. -/
noncomputable def eulerSum (y : ℝ) : ℕ → ℕ → ℝ → ℝ
  | 0, _, _ => 0
  | k + 1, n, term => term + eulerSum y k (n + 1) (term * y * (2 * n) / (2 * n + 1))

theorem eulerSum_mul (y : ℝ) (k n : ℕ) (a c : ℝ) : eulerSum y k n (a * c) = a * eulerSum y k n c := by
  induction k generalizing n c with
  | zero => simp [eulerSum]
  | succ k ih =>
    simp only [eulerSum]
    rw [mul_assoc a, mul_assoc a, mul_div_assoc a, ih, mul_add]

/-- One term of Euler's series: its derivative is the difference of two powers. -/
theorem hasDerivAt_eulerTerm (m : ℕ) (x : ℝ) :
    HasDerivAt (fun x : ℝ => x / (1 + x ^ 2) * (x ^ 2 / (1 + x ^ 2)) ^ m)
      (1 / (1 + x ^ 2) * ((2 * m + 1) * (x ^ 2 / (1 + x ^ 2)) ^ m - (2 * m + 2) * (x ^ 2 / (1 + x ^ 2)) ^ (m + 1))) x := by
  have hq : 1 + x ^ 2 ≠ 0 := by positivity
  have hden : HasDerivAt (fun x : ℝ => 1 + x ^ 2) (2 * x) x := by simpa using (hasDerivAt_pow 2 x).const_add 1
  have hnum : HasDerivAt (fun x : ℝ => x ^ 2) (2 * x) x := by simpa using hasDerivAt_pow 2 x
  have h := ((hasDerivAt_id' x).fun_div hden hq).fun_mul ((hnum.fun_div hden hq).fun_pow m)
  refine h.congr_deriv ?_
  cases m with
  | zero =>
    simp only [Nat.cast_zero, zero_mul, mul_zero, add_zero, pow_zero, mul_one, zero_add, pow_one]
    field_simp
  | succ m =>
    simp only [Nat.cast_add, Nat.cast_one, Nat.add_sub_cancel, pow_succ]
    field_simp
    ring

/-- The derivatives of the terms telescope: what is left of the derivative is the first power and a multiple of the last. -/
theorem exists_hasDerivAt_eulerSum (k m : ℕ) {c : ℝ} (hc : 0 ≤ c) :
    ∃ b, 0 ≤ b ∧ b ≤ c ∧ ∀ x : ℝ, HasDerivAt
      (fun x : ℝ => x / (1 + x ^ 2) * eulerSum (x ^ 2 / (1 + x ^ 2)) k (m + 1) (c * (x ^ 2 / (1 + x ^ 2)) ^ m))
      (1 / (1 + x ^ 2) * ((2 * m + 1) * c * (x ^ 2 / (1 + x ^ 2)) ^ m
        - (2 * (m + k : ℕ) + 1) * b * (x ^ 2 / (1 + x ^ 2)) ^ (m + k))) x := by
  induction k generalizing m c with
  | zero => exact ⟨c, hc, le_refl c, fun x => by simpa [eulerSum] using hasDerivAt_const x (0 : ℝ)⟩
  | succ k ih =>
    have hratio : (2 * (m + 1 : ℕ) : ℝ) / (2 * (m + 1 : ℕ) + 1) ≤ 1 := by
      rw [div_le_one (by positivity)]
      linarith
    obtain ⟨b, hb0, hbc, hb⟩ := ih (m + 1) (c := c * ((2 * (m + 1 : ℕ)) / (2 * (m + 1 : ℕ) + 1))) (by positivity)
    refine ⟨b, hb0, hbc.trans (mul_le_of_le_one_right hc hratio), fun x => ?_⟩
    have h := ((hasDerivAt_eulerTerm m x).const_mul c).fun_add (hb x)
    refine (h.congr_deriv ?_).congr_of_eventuallyEq (.of_forall fun x => ?_)
    · rw [show m + 1 + k = m + (k + 1) by ring]
      push_cast
      field_simp
      ring
    · simp only [eulerSum]
      rw [pow_succ _ m, show c * (x ^ 2 / (1 + x ^ 2)) ^ m * (x ^ 2 / (1 + x ^ 2)) * (2 * (m + 1 : ℕ)) / (2 * (m + 1 : ℕ) + 1)
        = c * ((2 * (m + 1 : ℕ)) / (2 * (m + 1 : ℕ) + 1)) * ((x ^ 2 / (1 + x ^ 2)) ^ m * (x ^ 2 / (1 + x ^ 2))) by ring]
      ring

/-- Up to 1, each term of Euler's series at least halves what is left of the arc tangent. -/
theorem eulerSum_near {x : ℝ} (h0 : 0 ≤ x) (h1 : x ≤ 1) (k : ℕ) :
    |x / (1 + x ^ 2) * eulerSum (x ^ 2 / (1 + x ^ 2)) k 1 1 - Real.arctan x| ≤ (2 * k + 1) / 2 ^ k * x := by
  obtain ⟨b, hb0, hb1, hb⟩ := exists_hasDerivAt_eulerSum k 0 zero_le_one
  simp only [zero_add, pow_zero, mul_one, Nat.cast_zero, mul_zero] at hb
  have hbound (z : ℝ) (hz : z ∈ Set.Icc (0 : ℝ) 1) :
      ‖1 / (1 + z ^ 2) * (1 - (2 * k + 1) * b * (z ^ 2 / (1 + z ^ 2)) ^ k) - 1 / (1 + z ^ 2)‖
        ≤ (2 * k + 1) / 2 ^ k := by
    have hhalf : z ^ 2 / (1 + z ^ 2) ≤ 1 / 2 := by
      rw [div_le_div_iff₀ (by positivity) (by norm_num)]
      nlinarith [hz.1, hz.2]
    have hpow : (z ^ 2 / (1 + z ^ 2)) ^ k ≤ (1 / 2) ^ k := pow_le_pow_left₀ (by positivity) hhalf k
    have hinv : 1 / (1 + z ^ 2) ≤ 1 := by
      rw [div_le_one (by positivity)]
      nlinarith [sq_nonneg z]
    have heq : 1 / (1 + z ^ 2) * (1 - (2 * k + 1) * b * (z ^ 2 / (1 + z ^ 2)) ^ k) - 1 / (1 + z ^ 2)
        = -(1 / (1 + z ^ 2) * ((2 * k + 1) * b * (z ^ 2 / (1 + z ^ 2)) ^ k)) := by ring
    rw [heq, norm_neg, Real.norm_of_nonneg (by positivity)]
    calc 1 / (1 + z ^ 2) * ((2 * k + 1) * b * (z ^ 2 / (1 + z ^ 2)) ^ k)
        ≤ 1 * ((2 * k + 1) * 1 * (1 / 2) ^ k) := by gcongr
      _ = (2 * k + 1) / 2 ^ k := by rw [div_pow, one_pow]; ring
  have h := Convex.norm_image_sub_le_of_norm_hasDerivWithin_le
    (fun z _ => ((hb z).fun_sub (Real.hasDerivAt_arctan z)).hasDerivWithinAt) hbound (convex_Icc 0 1)
    (Set.left_mem_Icc.mpr zero_le_one) (Set.mem_Icc.mpr ⟨h0, h1⟩)
  simpa [abs_of_nonneg h0] using h

end Sys2Proof.Machine
end

section
/-! The fixed-point series of the enclosure (log 32): what the truncations of each term, and the terms left out, add up
to. -/

namespace Sys2Proof.Machine

/-- A real number in units of `2^-192`. -/
noncomputable def inSeriesUnits (r : ℝ) : ℝ := r * 2 ^ seriesBits

/-! ### Truncating divisions -/

/-- An integer division drops less than 1. -/
theorem intDiv_bounds (n : ℤ) (c : ℕ) : ((n / c : ℤ) : ℝ) ≤ n / c ∧ (n : ℝ) / c < (n / c : ℤ) + 1 := by
  have h : ⌊(n : ℝ) / c⌋ = n / c := by rw [Int.floor_div_natCast, Int.floor_intCast]
  rw [← h]
  exact ⟨Int.floor_le _, Int.lt_floor_add_one _⟩

/-- So does one of natural numbers. -/
theorem natDiv_near (n c : ℕ) : ((n / c : ℕ) : ℝ) ≤ n / c ∧ (n : ℝ) / c < (n / c : ℕ) + 1 := by
  rw [← Nat.floor_div_eq_div (K := ℝ) n c]
  exact ⟨Nat.floor_le (by positivity), Nat.lt_floor_add_one _⟩

/-- `t` is the square of the argument, truncated to units of `2^-192`. -/
theorem squareUnits_bounds (x : Exact) :
    (squareUnits x : ℝ) ≤ inSeriesUnits (magnitude x ^ 2) ∧ inSeriesUnits (magnitude x ^ 2) < squareUnits x + 1 := by
  have h := scale_bounds (x.mant * x.mant) (2 * x.exp + seriesBits)
  have heq : ((x.mant * x.mant : ℕ) : ℝ) * 2 ^ (2 * x.exp + seriesBits) = inSeriesUnits (magnitude x ^ 2) := by
    rw [zpow_add₀ two_ne_zero, two_mul, zpow_add₀ two_ne_zero, zpow_natCast, inSeriesUnits, magnitude]
    push_cast
    ring
  rwa [heq] at h

/-! ### Sine and cosine -/

/-- The next term of the series of the sine or cosine: the product and the quotient are truncated, and the error of the
term before shrinks. -/
theorem circularTerm_near {t : ℕ} {y : ℝ} (ht : (t : ℝ) ≤ inSeriesUnits y) (ht' : inSeriesUnits y < t + 1) {a : ℤ}
    {b err : ℝ} (h0 : 0 ≤ a) (hab : (a : ℝ) ≤ b) (hba : b ≤ a + err) {c : ℕ} (hc : 0 < c) :
    0 ≤ a * t / 2 ^ seriesBits / (c : ℤ)
    ∧ ((a * t / 2 ^ seriesBits / (c : ℤ) : ℤ) : ℝ) ≤ b * y / c
    ∧ b * y / c ≤ (a * t / 2 ^ seriesBits / (c : ℤ) : ℤ) + ((err * y + a / 2 ^ seriesBits) / c + 1) := by
  have hunit : (0 : ℝ) < 2 ^ seriesBits := by positivity
  have hc' : (0 : ℝ) < c := Nat.cast_pos.mpr hc
  have ha : (0 : ℝ) ≤ a := Int.cast_nonneg h0
  have hquot : a * t / 2 ^ seriesBits / (c : ℤ) = a * t / ((2 ^ seriesBits * c : ℕ) : ℤ) := by
    push_cast
    rw [Int.ediv_ediv_of_nonneg (by positivity)]
  obtain ⟨hlow, hhigh⟩ := intDiv_bounds (a * t) (2 ^ seriesBits * c)
  rw [hquot]
  have hy : (t : ℝ) / 2 ^ seriesBits ≤ y := (div_le_iff₀ hunit).mpr ht
  have hy' : y < (t + 1 : ℝ) / 2 ^ seriesBits := (lt_div_iff₀ hunit).mpr ht'
  have hy0 : 0 ≤ y := le_trans (by positivity) hy
  have hvalue : ((a * t : ℤ) : ℝ) / (2 ^ seriesBits * c : ℕ) = a * (t / 2 ^ seriesBits) / c := by
    push_cast
    field_simp
  rw [hvalue] at hlow hhigh
  refine ⟨by positivity, hlow.trans ?_, ?_⟩
  · have hb0 : 0 ≤ b := ha.trans hab
    gcongr
  · have hprod : b * y ≤ a * (t / 2 ^ seriesBits) + (err * y + a / 2 ^ seriesBits) := by
      have h1 := mul_le_mul_of_nonneg_right hba hy0
      have h2 := mul_le_mul_of_nonneg_left hy'.le ha
      have h3 : (a : ℝ) * ((t + 1) / 2 ^ seriesBits) = a * (t / 2 ^ seriesBits) + a / 2 ^ seriesBits := by ring
      rw [add_mul] at h1
      linarith
    have hdiv := div_le_div_of_nonneg_right hprod hc'.le
    rw [add_div] at hdiv
    linarith

/-- Every term of the sine, and of the cosine from the second on, is within 3 units, so the sums are within 3 units for each
term. -/
theorem circularSeries_near {t : ℕ} {y : ℝ} (ht : (t : ℝ) ≤ inSeriesUnits y) (ht' : inSeriesUnits y < t + 1)
    (hy : y ≤ 5 / 2) (k : ℕ) {d : ℕ} (hd : 1 ≤ d) {a : ℤ} {b : ℝ} (h0 : 0 ≤ a) (hab : (a : ℝ) ≤ b) (hba : b ≤ a + 3)
    (hb : b ≤ 2 * 2 ^ seriesBits) : |circularSeries t k d a - circularSum y k d b| ≤ 3 * k := by
  induction k generalizing d a b with
  | zero => simp [circularSeries, circularSum]
  | succ k ih =>
    have hunit : (0 : ℝ) < 2 ^ seriesBits := by positivity
    have hy0 : 0 ≤ y := nonneg_of_mul_nonneg_left ((Nat.cast_nonneg t).trans ht) hunit
    have ha : (0 : ℝ) ≤ a := Int.cast_nonneg h0
    have hc : 6 ≤ (d + 1) * (d + 2) := Nat.mul_le_mul (show 2 ≤ d + 1 by omega) (show 3 ≤ d + 2 by omega)
    have hc' : (6 : ℝ) ≤ ((d + 1) * (d + 2) : ℕ) := by exact_mod_cast hc
    obtain ⟨h1, h2, h3⟩ := circularTerm_near ht ht' h0 hab hba (c := (d + 1) * (d + 2)) (by omega)
    have herr : (3 * y + a / 2 ^ seriesBits) / ((d + 1) * (d + 2) : ℕ) + 1 ≤ 3 := by
      have ha2 : (a : ℝ) / 2 ^ seriesBits ≤ 2 := (div_le_iff₀ hunit).mpr (hab.trans hb)
      have := (div_le_iff₀ (by linarith : (0 : ℝ) < ((d + 1) * (d + 2) : ℕ))).mpr
        (show 3 * y + a / 2 ^ seriesBits ≤ 2 * ((d + 1) * (d + 2) : ℕ) by linarith)
      linarith
    have hnext : b * y / ((d + 1) * (d + 2) : ℕ) ≤ 2 * 2 ^ seriesBits := by
      rw [div_le_iff₀ (by linarith)]
      have hb0 : 0 ≤ b := ha.trans hab
      nlinarith
    have h := ih (d := d + 2) (by omega) h1 h2 (h3.trans (by linarith)) hnext
    simp only [circularSeries, circularSum]
    push_cast at h hab hba ⊢
    rw [abs_le] at h ⊢
    constructor <;> linarith [h.1, h.2]

/-- The terms left out after 32 are far below a unit. -/
theorem circularTail_le {x : ℝ} (h0 : 0 ≤ x) (h2 : x ≤ 2) :
    |x| / (2 * 32).succ ≤ 1 / 2 ∧ |x| ^ (2 * 32) / (2 * 32).factorial * 2 * 2 ^ seriesBits ≤ x := by
  rw [abs_of_nonneg h0]
  refine ⟨by push_cast; linarith, ?_⟩
  have hpow : x ^ (2 * 32) ≤ x * 2 ^ 63 := by
    rw [show 2 * 32 = 63 + 1 from rfl, pow_succ']
    gcongr
  have hfact : (2 : ℝ) ^ 63 * 2 * 2 ^ seriesBits ≤ ((2 * 32).factorial : ℕ) := by
    have h : 2 ^ 63 * 2 * 2 ^ seriesBits ≤ (2 * 32).factorial := by decide +kernel
    exact_mod_cast h
  rw [div_mul_eq_mul_div, div_mul_eq_mul_div, div_le_iff₀ (by positivity)]
  calc x ^ (2 * 32) * 2 * 2 ^ seriesBits ≤ x * 2 ^ 63 * 2 * 2 ^ seriesBits := by gcongr
    _ = x * (2 ^ 63 * 2 * 2 ^ seriesBits) := by ring
    _ ≤ x * _ := mul_le_mul_of_nonneg_left hfact h0

/-- The series of the sine, cut after 32 terms. -/
theorem sineSeries_near {t : ℕ} {x : ℝ} (ht : (t : ℝ) ≤ inSeriesUnits (x ^ 2)) (ht' : inSeriesUnits (x ^ 2) < t + 1)
    (h0 : 0 < x) (h2 : x ^ 2 ≤ 5 / 2) :
    |circularSeries t 32 1 (2 ^ seriesBits) - inSeriesUnits (Real.sin x / x)| ≤ 97 := by
  obtain ⟨hlow, htail⟩ := circularTail_le h0.le (by nlinarith)
  obtain ⟨-, hsin⟩ := circularSum_near (x := x) 32 hlow
  have hround := circularSeries_near ht ht' h2 32 (d := 1) (a := 2 ^ seriesBits) (b := 2 ^ seriesBits) le_rfl
    (by positivity) (by push_cast; rfl) (by push_cast; linarith) (by linarith [pow_pos (zero_lt_two (α := ℝ)) seriesBits])
  have hfactor : circularSum (x ^ 2) 32 1 (2 ^ seriesBits) = 2 ^ seriesBits / x * circularSum (x ^ 2) 32 1 x := by
    rw [← circularSum_mul, div_mul_cancel₀ _ h0.ne']
  have hnear : |circularSum (x ^ 2) 32 1 (2 ^ seriesBits) - inSeriesUnits (Real.sin x / x)| ≤ 1 := by
    have heq : circularSum (x ^ 2) 32 1 (2 ^ seriesBits) - inSeriesUnits (Real.sin x / x)
        = 2 ^ seriesBits / x * (circularSum (x ^ 2) 32 1 x - Real.sin x) := by
      rw [hfactor, inSeriesUnits]
      ring
    rw [heq, abs_mul, abs_of_pos (by positivity)]
    calc 2 ^ seriesBits / x * |circularSum (x ^ 2) 32 1 x - Real.sin x|
        ≤ 2 ^ seriesBits / x * (|x| ^ (2 * 32) / (2 * 32).factorial * 2) := by gcongr
      _ = |x| ^ (2 * 32) / (2 * 32).factorial * 2 * 2 ^ seriesBits / x := by ring
      _ ≤ 1 := (div_le_one h0).mpr htail
  refine (abs_sub_le _ (circularSum (x ^ 2) 32 1 (2 ^ seriesBits)) _).trans ?_
  norm_num at hround
  linarith

/-- The series of the cosine, cut after 32 terms; its second term is the only one not below the first. -/
theorem cosineSeries_near {t : ℕ} {x : ℝ} (ht : (t : ℝ) ≤ inSeriesUnits (x ^ 2)) (ht' : inSeriesUnits (x ^ 2) < t + 1)
    (h0 : 0 < x) (h2 : x ^ 2 ≤ 5 / 2) :
    |circularSeries t 32 0 (2 ^ seriesBits) - inSeriesUnits (Real.cos x)| ≤ 97 := by
  have hunit : (0 : ℝ) < 2 ^ seriesBits := by positivity
  obtain ⟨hlow, htail⟩ := circularTail_le h0.le (by nlinarith)
  obtain ⟨hcos, -⟩ := circularSum_near (x := x) 32 hlow
  obtain ⟨h1, hle, hge⟩ := circularTerm_near ht ht' (a := 2 ^ seriesBits) (b := 2 ^ seriesBits) (err := 0)
    (by positivity) (by push_cast; rfl) (by push_cast; linarith) (c := (0 + 1) * (0 + 2)) (by norm_num)
  have hround := circularSeries_near ht ht' h2 31 (d := 0 + 2) (by norm_num) h1 hle
    (hge.trans (by push_cast; rw [div_self hunit.ne']; norm_num)) (by push_cast; nlinarith)
  have hround' : |circularSeries t 32 0 (2 ^ seriesBits) - circularSum (x ^ 2) 32 0 (2 ^ seriesBits)| ≤ 3 * (31 : ℕ) := by
    rw [circularSeries, circularSum]
    rw [abs_sub_comm] at hround
    convert hround using 2
    push_cast
    ring
  have hnear : |circularSum (x ^ 2) 32 0 (2 ^ seriesBits) - inSeriesUnits (Real.cos x)| ≤ 2 := by
    have heq : circularSum (x ^ 2) 32 0 (2 ^ seriesBits) - inSeriesUnits (Real.cos x)
        = 2 ^ seriesBits * (circularSum (x ^ 2) 32 0 1 - Real.cos x) := by
      have hfactor := circularSum_mul (x ^ 2) 32 0 (2 ^ seriesBits) 1
      rw [mul_one] at hfactor
      rw [hfactor, inSeriesUnits]
      ring
    rw [heq, abs_mul, abs_of_pos (by positivity)]
    calc 2 ^ seriesBits * |circularSum (x ^ 2) 32 0 1 - Real.cos x|
        ≤ 2 ^ seriesBits * (|x| ^ (2 * 32) / (2 * 32).factorial * 2) := by gcongr
      _ ≤ 2 := by nlinarith
  refine (abs_sub_le _ (circularSum (x ^ 2) 32 0 (2 ^ seriesBits)) _).trans ?_
  norm_num at hround'
  linarith

/-! ### Arc tangent -/

/-- The next term of Euler's series: two truncations, and the error of the term before shrinks. -/
theorem eulerTerm_near {u : ℕ} {y : ℝ} (hu : (u : ℝ) ≤ inSeriesUnits y) (hu' : inSeriesUnits y < u + 2) {a n : ℕ}
    {b err : ℝ} (hab : (a : ℝ) ≤ b) (hba : b ≤ a + err) :
    ((a * u / 2 ^ seriesBits * (2 * n) / (2 * n + 1) : ℕ) : ℝ) ≤ b * y * (2 * n) / (2 * n + 1)
    ∧ b * y * (2 * n) / (2 * n + 1)
      ≤ (a * u / 2 ^ seriesBits * (2 * n) / (2 * n + 1) : ℕ) + (err * y + a * 2 / 2 ^ seriesBits + 2) := by
  have hunit : (0 : ℝ) < 2 ^ seriesBits := by positivity
  have hy : (u : ℝ) / 2 ^ seriesBits ≤ y := (div_le_iff₀ hunit).mpr hu
  have hy' : y < (u + 2 : ℝ) / 2 ^ seriesBits := (lt_div_iff₀ hunit).mpr hu'
  have hy0 : 0 ≤ y := le_trans (by positivity) hy
  have ha : (0 : ℝ) ≤ a := Nat.cast_nonneg a
  have hb : 0 ≤ b := ha.trans hab
  obtain ⟨r, hr⟩ : ∃ r : ℝ, r = 2 * n / (2 * n + 1) := ⟨_, rfl⟩
  have hr0 : 0 ≤ r := by rw [hr]; positivity
  have hr1 : r ≤ 1 := by
    rw [hr, div_le_one (by positivity)]
    linarith
  obtain ⟨hp, hp'⟩ := natDiv_near (a * u) (2 ^ seriesBits)
  obtain ⟨hq, hq'⟩ := natDiv_near (a * u / 2 ^ seriesBits * (2 * n)) (2 * n + 1)
  push_cast at hp hp' hq hq'
  have hratio (z : ℝ) : z * (2 * n) / (2 * n + 1) = z * r := by rw [hr, mul_div_assoc]
  rw [hratio] at hq hq' ⊢
  rw [mul_div_assoc] at hp hp'
  have hprod : (a : ℝ) * (u / 2 ^ seriesBits) ≤ b * y := mul_le_mul hab hy (by positivity) hb
  have hprod' : b * y ≤ a * (u / 2 ^ seriesBits) + (err * y + a * 2 / 2 ^ seriesBits) := by
    have h1 := mul_le_mul_of_nonneg_right hba hy0
    have h2 := mul_le_mul_of_nonneg_left hy'.le ha
    have h3 : (a : ℝ) * ((u + 2) / 2 ^ seriesBits) = a * (u / 2 ^ seriesBits) + a * 2 / 2 ^ seriesBits := by ring
    rw [add_mul] at h1
    linarith
  generalize ((a * u / 2 ^ seriesBits : ℕ) : ℝ) = p at *
  have h1 : p * r ≤ b * y * r := mul_le_mul_of_nonneg_right (hp.trans hprod) hr0
  have h2 : (b * y - p) * r ≤ (b * y - p) * 1 := mul_le_mul_of_nonneg_left hr1 (by linarith)
  exact ⟨hq.trans h1, by linarith⟩

/-- Every term is within 8 units, so the sum is within 8 units for each term; and each term is at most half the one
before. -/
theorem eulerSeries_near {u : ℕ} {y : ℝ} (hu : (u : ℝ) ≤ inSeriesUnits y) (hu' : inSeriesUnits y < u + 2)
    (hy : y ≤ 1 / 2) (k n : ℕ) {a : ℕ} {b : ℝ} (hab : (a : ℝ) ≤ b) (hba : b ≤ a + 8) (hb : b ≤ 2 ^ seriesBits) :
    (eulerSeries u k n a : ℝ) ≤ eulerSum y k n b ∧ eulerSum y k n b ≤ eulerSeries u k n a + 8 * k
    ∧ eulerSum y k n b ≤ 2 * b := by
  induction k generalizing n a b with
  | zero =>
    have hb0 : 0 ≤ b := (Nat.cast_nonneg a).trans hab
    simpa [eulerSeries, eulerSum] using hb0
  | succ k ih =>
    have hunit : (0 : ℝ) < 2 ^ seriesBits := by positivity
    have hb0 : 0 ≤ b := (Nat.cast_nonneg a).trans hab
    have hy0 : 0 ≤ y := nonneg_of_mul_nonneg_left ((Nat.cast_nonneg u).trans hu) hunit
    obtain ⟨h1, h2⟩ := eulerTerm_near hu hu' (n := n) hab hba
    have hhalf : b * y * (2 * n) / (2 * n + 1) ≤ b / 2 := by
      rw [div_le_iff₀ (by positivity)]
      have hn : (0 : ℝ) ≤ n := Nat.cast_nonneg n
      have hby : b * y ≤ b / 2 := by nlinarith
      nlinarith
    have ha1 : (a : ℝ) * 2 / 2 ^ seriesBits ≤ 2 := by
      rw [div_le_iff₀ hunit]
      linarith
    obtain ⟨h3, h4, h5⟩ := ih (n + 1) h1 (h2.trans (by linarith)) (by linarith)
    simp only [eulerSeries, eulerSum]
    push_cast at *
    exact ⟨by linarith, by linarith, by linarith⟩

/-- `y/(1+y)` of the truncated square, truncated again. -/
theorem eulerRatio_near {t : ℕ} {x : ℝ} (ht : (t : ℝ) ≤ inSeriesUnits (x ^ 2)) (ht' : inSeriesUnits (x ^ 2) < t + 1) :
    ((t * 2 ^ seriesBits / (2 ^ seriesBits + t) : ℕ) : ℝ) ≤ inSeriesUnits (x ^ 2 / (1 + x ^ 2))
    ∧ inSeriesUnits (x ^ 2 / (1 + x ^ 2)) < (t * 2 ^ seriesBits / (2 ^ seriesBits + t) : ℕ) + 2 := by
  obtain ⟨hlow, hhigh⟩ := natDiv_near (t * 2 ^ seriesBits) (2 ^ seriesBits + t)
  have hratio : inSeriesUnits (x ^ 2 / (1 + x ^ 2))
      = inSeriesUnits (x ^ 2) * 2 ^ seriesBits / (2 ^ seriesBits + inSeriesUnits (x ^ 2)) := by
    simp only [inSeriesUnits]
    field_simp
  rw [hratio]
  push_cast at hlow hhigh
  have hunit : (0 : ℝ) < 2 ^ seriesBits := by positivity
  have ht0 : (0 : ℝ) ≤ t := Nat.cast_nonneg t
  generalize inSeriesUnits (x ^ 2) = w at *
  generalize ((t * 2 ^ seriesBits / (2 ^ seriesBits + t) : ℕ) : ℝ) = m at *
  generalize (2 : ℝ) ^ seriesBits = unit at *
  refine ⟨hlow.trans ?_, ?_⟩
  · rw [div_le_div_iff₀ (by linarith) (by linarith)]
    nlinarith [mul_nonneg hunit.le hunit.le]
  · have hstep : w * unit / (unit + w) ≤ t * unit / (unit + t) + (w - t) := by
      rw [div_add' _ _ _ (by positivity), div_le_div_iff₀ (by linarith) (by linarith)]
      have h1 : 0 ≤ (w - t) * (w * t + unit * t + unit * w) :=
        mul_nonneg (by linarith) (by have := mul_nonneg (ht0.trans ht) ht0; nlinarith)
      nlinarith
    linarith

/-- Euler's sum, cut after 200 terms, with its factor `1/(1+x^2)`. -/
theorem arctanSum_near {x y : ℝ} (hy : y = x ^ 2 / (1 + x ^ 2)) (h0 : 0 < x) (h1 : x ≤ 1) :
    |(1 - y) * eulerSum y 200 1 (2 ^ seriesBits) - inSeriesUnits (Real.arctan x / x)| ≤ 2 := by
  have hfactor : x / (1 + x ^ 2) = x * (1 - y) := by
    rw [hy]
    field_simp
    ring
  have hfull := eulerSum_near h0.le h1 200
  rw [← hy, hfactor] at hfull
  have hsum := eulerSum_mul y 200 1 (2 ^ seriesBits) 1
  rw [mul_one] at hsum
  have heq : (1 - y) * eulerSum y 200 1 (2 ^ seriesBits) - inSeriesUnits (Real.arctan x / x)
      = 2 ^ seriesBits / x * (x * (1 - y) * eulerSum y 200 1 1 - Real.arctan x) := by
    rw [hsum, inSeriesUnits]
    field_simp
  rw [heq, abs_mul, abs_of_pos (by positivity)]
  calc 2 ^ seriesBits / x * |x * (1 - y) * eulerSum y 200 1 1 - Real.arctan x|
      ≤ 2 ^ seriesBits / x * ((2 * (200 : ℕ) + 1) / 2 ^ 200 * x) := by gcongr
    _ = 2 ^ seriesBits * ((2 * (200 : ℕ) + 1) / 2 ^ 200) := by field_simp
    _ ≤ 2 := by rw [seriesBits]; norm_num

/-- A factor at most 1 and a sum, each given from below: how far their product is from the exact one. -/
theorem truncatedProduct_near {unit v y m w err : ℝ} (hv0 : v ≤ y) (hv : (y - v) * unit ≤ 2) (hy0 : 0 ≤ y) (hy1 : y ≤ 1)
    (hm0 : 0 ≤ m) (hm : m ≤ w) (hm' : w ≤ m + err) (herr : 0 ≤ err) (hw : w ≤ 2 * unit) :
    (1 - y) * w - err ≤ (1 - v) * m ∧ (1 - v) * m ≤ (1 - y) * w + 4 := by
  constructor
  · have h1 : (1 - y) * m ≤ (1 - v) * m := mul_le_mul_of_nonneg_right (by linarith) hm0
    have h2 : (1 - y) * w ≤ (1 - y) * (m + err) := mul_le_mul_of_nonneg_left hm' (by linarith)
    have h3 : 0 ≤ y * err := mul_nonneg hy0 herr
    linarith
  · have h1 : (1 - v) * m ≤ (1 - v) * w := mul_le_mul_of_nonneg_left hm (by linarith)
    have h2 : (y - v) * w ≤ (y - v) * (2 * unit) := mul_le_mul_of_nonneg_left hw (by linarith)
    linarith

/-- The series of the arc tangent, with its factor. -/
theorem arctanSeries_near {t : ℕ} {x : ℝ} (ht : (t : ℝ) ≤ inSeriesUnits (x ^ 2)) (ht' : inSeriesUnits (x ^ 2) < t + 1)
    (h0 : 0 < x) (h1 : x ≤ 1) {u : ℕ} (hu : u = t * 2 ^ seriesBits / (2 ^ seriesBits + t)) :
    |((2 ^ seriesBits - u) * eulerSeries u 200 1 (2 ^ seriesBits) / 2 ^ seriesBits : ℕ)
      - inSeriesUnits (Real.arctan x / x)| ≤ 1603 := by
  have hunit : (0 : ℝ) < 2 ^ seriesBits := by positivity
  obtain ⟨hlow, hhigh⟩ := eulerRatio_near ht ht'
  obtain ⟨y, hy⟩ : ∃ y : ℝ, y = x ^ 2 / (1 + x ^ 2) := ⟨_, rfl⟩
  rw [← hu, ← hy] at hlow hhigh
  have hnear := arctanSum_near hy h0 h1
  have hy0 : 0 ≤ y := by rw [hy]; positivity
  have hyhalf : y ≤ 1 / 2 := by
    rw [hy, div_le_div_iff₀ (by positivity) (by norm_num)]
    nlinarith
  obtain ⟨hS, hS', hS2⟩ := eulerSeries_near hlow hhigh hyhalf 200 1 (a := 2 ^ seriesBits) (b := 2 ^ seriesBits)
    (by push_cast; rfl) (by push_cast; linarith) le_rfl
  have hule : u ≤ 2 ^ seriesBits := by
    have : (u : ℝ) ≤ 2 ^ seriesBits := hlow.trans (by rw [inSeriesUnits]; nlinarith)
    exact_mod_cast this
  obtain ⟨hp, hp'⟩ := natDiv_near ((2 ^ seriesBits - u) * eulerSeries u 200 1 (2 ^ seriesBits)) (2 ^ seriesBits)
  push_cast [Nat.cast_sub hule] at hp hp'
  rw [mul_div_right_comm, sub_div, div_self hunit.ne'] at hp hp'
  have hv' : (y - u / 2 ^ seriesBits) * 2 ^ seriesBits ≤ 2 := by
    rw [sub_mul, div_mul_cancel₀ _ hunit.ne']
    exact sub_le_iff_le_add'.mpr hhigh.le
  obtain ⟨hdown, hup⟩ := truncatedProduct_near ((div_le_iff₀ hunit).mpr hlow) hv' hy0 (by linarith) (Nat.cast_nonneg _)
    hS hS' (by norm_num) hS2
  push_cast at hdown hp hp' ⊢
  rw [abs_le] at hnear ⊢
  constructor <;> linarith [hnear.1, hnear.2]

end Sys2Proof.Machine
end

section
/-! The enclosure of SIN, COS and ATAN against the real functions (spec/46_transcendental.md R371; log 32). -/

namespace Sys2Proof.Machine

/-- What the series of a function gives for a positive argument: the function, for the odd ones over the argument. -/
noncomputable def trigRatio : TrigFn → ℝ → ℝ
  | .sin, x => Real.sin x / x
  | .cos, x => Real.cos x
  | .atan, x => Real.arctan x / x

/-! ### The series -/

/-- Cutting a series off at 0 does not move it away from a number that is not negative. -/
theorem toNat_near (z : ℤ) {r : ℝ} (hr : 0 ≤ r) : |(z.toNat : ℝ) - r| ≤ |(z : ℝ) - r| := by
  have hz : (z.toNat : ℝ) = max (z : ℝ) 0 := by
    have h : (z.toNat : ℤ) = max z 0 := Int.toNat_eq_max z
    exact_mod_cast congrArg (Int.cast (R := ℝ)) h
  calc |(z.toNat : ℝ) - r| = |max (z : ℝ) 0 - max r 0| := by rw [hz, max_eq_left hr]
    _ ≤ |(z : ℝ) - r| := abs_max_sub_max_le_abs ..

section
variable {x : Exact} (h0 : 0 < magnitude x)
include h0

/-- Between 0 and the end of the range the functions are positive and below the argument, or below 1; a cosine stays away
from 0 since no operand is near pi/2. -/
theorem trigRatio_bounds {fn : TrigFn} (hlt : x.mant < 2 ^ 64) (hle : magnitude x ≤ trigLimit fn) :
    1 / 2 ^ 77 ≤ trigRatio fn (magnitude x) ∧ trigRatio fn (magnitude x) < 1 := by
  have hpi := Real.pi_le_four
  have hpi0 := Real.pi_pos
  have htwo : 1 / 2 ≤ 2 / Real.pi := by rw [div_le_div_iff₀ (by norm_num) hpi0]; linarith
  cases fn with
  | sin =>
    have hmul := Real.mul_le_sin h0.le hle
    simp only [trigRatio]
    rw [le_div_iff₀ h0, div_lt_one h0]
    refine ⟨le_trans (mul_le_mul_of_nonneg_right (le_trans ?_ htwo) h0.le) hmul, Real.sin_lt h0⟩
    norm_num
  | cos =>
    have hmul := Real.one_sub_mul_le_cos h0.le hle
    have hgap := magnitude_gap hlt hle
    have hone : 2 / Real.pi * (Real.pi / 2) = 1 := by field_simp
    have hlow := mul_le_mul htwo (by linarith : 1 / 2 ^ 64 ≤ Real.pi / 2 - magnitude x) (by norm_num) (by positivity)
    refine ⟨?_, ?_⟩
    · rw [mul_sub, hone] at hlow
      refine le_trans ?_ (hlow.trans hmul)
      norm_num
    · have := Real.cos_lt_cos_of_nonneg_of_le_pi_div_two le_rfl hle h0
      rwa [Real.cos_zero] at this
  | atan =>
    change magnitude x ≤ 1 at hle
    simp only [trigRatio]
    rw [le_div_iff₀ h0, div_lt_one h0]
    have hpos := Real.arctan_pos.mpr h0
    refine ⟨?_, ?_⟩
    · have hsin := Real.sin_le hpos.le
      rw [Real.sin_arctan] at hsin
      refine le_trans ?_ hsin
      rw [le_div_iff₀ (by positivity)]
      have hroot : √(1 + magnitude x ^ 2) ≤ 2 := Real.sqrt_le_iff.mpr ⟨by norm_num, by nlinarith⟩
      nlinarith
    · have htan := Real.lt_tan hpos (Real.arctan_lt_pi_div_two _)
      rwa [Real.tan_arctan] at htan

/-- The series are within the slack. -/
theorem seriesUnits_near {fn : TrigFn} (hlt : x.mant < 2 ^ 64) (hle : magnitude x ≤ trigLimit fn) :
    |(seriesUnits fn x : ℝ) - inSeriesUnits (trigRatio fn (magnitude x))| < 4096 := by
  obtain ⟨ht, ht'⟩ := squareUnits_bounds x
  have hratio : 0 ≤ inSeriesUnits (trigRatio fn (magnitude x)) :=
    mul_nonneg (le_trans (by positivity) (trigRatio_bounds h0 hlt hle).1) (by positivity)
  have hsquare (h : magnitude x ≤ Real.pi / 2) : magnitude x ^ 2 ≤ 5 / 2 := by
    have hpi := Real.pi_lt_d2
    norm_num at hpi
    nlinarith
  cases fn with
  | sin =>
    simp only [seriesUnits, trigRatio] at hratio ⊢
    have h := (toNat_near _ hratio).trans (sineSeries_near ht ht' h0 (hsquare hle))
    linarith
  | cos =>
    simp only [seriesUnits, trigRatio] at hratio ⊢
    have h := (toNat_near _ hratio).trans (cosineSeries_near ht ht' h0 (hsquare hle))
    linarith
  | atan =>
    have h := arctanSeries_near ht ht' h0 hle rfl
    simp only [seriesUnits, trigRatio]
    linarith

end

/-! ### The interval -/

/-- The ends taken from a series within the slack enclose the number, narrowly. -/
theorem seriesEnds_enclose {c : ℕ} {r : ℝ} (h : |(c : ℝ) - r| < 4096) (hlow : 2 ^ 115 ≤ r) (hhigh : r < 2 ^ seriesBits) :
    ((seriesEnds c).1 : ℝ) < r ∧ r < (seriesEnds c).2
    ∧ ((seriesEnds c).2 - (seriesEnds c).1) * 2 ^ 100 ≤ (seriesEnds c).1 := by
  rw [abs_lt] at h
  have hc : 2 ^ 115 < c + 4096 := by
    have : (2 : ℝ) ^ 115 < c + 4096 := by linarith
    exact_mod_cast this
  have hc' : c < 2 ^ seriesBits + 4096 := by
    have : (c : ℝ) < 2 ^ seriesBits + 4096 := by linarith
    exact_mod_cast this
  have hlower : (seriesEnds c).1 + 4096 = c := by
    simp only [seriesEnds, seriesBits, seriesSlack] at hc' ⊢
    omega
  have hupper : min (c + 4096) (2 ^ seriesBits) ≤ (seriesEnds c).2 := le_max_left ..
  have hwidth : (seriesEnds c).2 ≤ (seriesEnds c).1 + 2 * 4096 := by
    simp only [seriesEnds, seriesBits, seriesSlack] at hc' ⊢
    omega
  have hlower' : ((seriesEnds c).1 : ℝ) + 4096 = c := by exact_mod_cast hlower
  refine ⟨by linarith, ?_, by omega⟩
  have hmin : r < (min (c + 4096) (2 ^ seriesBits) : ℕ) := by
    rw [Nat.cast_min, lt_min_iff]
    push_cast
    exact ⟨by linarith, hhigh⟩
  exact hmin.trans_le (Nat.cast_le.mpr hupper)

/-- A magnitude is positive if it is that of a number. -/
theorem isNumber.magnitude_pos {v : Extended} (h : isNumber v) : 0 < magnitude (extValue v) :=
  mul_pos (Nat.cast_pos.mpr h.mant_bounds.1) (by positivity)

/-- The two odd functions keep the argument's sign, the cosine is not negative. -/
theorem trigReal_sign (fn : TrigFn) {v : Extended} (h : isNumber v) (hle : |extReal v| ≤ trigLimit fn) :
    |trigReal fn (extReal v)| = trigReal fn (magnitude (extValue v))
    ∧ (trigSign fn (extValue v) = true ↔ trigReal fn (extReal v) < 0) := by
  have hne : extReal v ≠ 0 := abs_pos.mp (abs_extReal v ▸ h.magnitude_pos)
  have hneg := extValue_neg v hne
  have hpi := Real.pi_pos
  rw [← abs_extReal]
  generalize extReal v = r at *
  cases fn with
  | sin =>
    change |r| ≤ Real.pi / 2 at hle
    obtain ⟨hlow, hhigh⟩ := abs_le.mp hle
    refine ⟨Real.abs_sin_eq_sin_abs_of_abs_le_pi (by linarith), hneg.trans ?_⟩
    simp only [trigReal]
    rcases lt_or_gt_of_ne hne with hr | hr
    · exact iff_of_true hr (Real.sin_neg_of_neg_of_neg_pi_lt hr (by linarith))
    · exact iff_of_false hr.not_gt (Real.sin_pos_of_pos_of_lt_pi hr (by linarith)).not_gt
  | cos =>
    have hcos := Real.cos_nonneg_of_mem_Icc (Set.mem_Icc.mpr (abs_le.mp hle))
    simp only [trigReal, trigSign, Real.cos_abs, abs_of_nonneg hcos, hcos.not_gt, Bool.false_eq_true, and_self]
  | atan =>
    refine ⟨?_, hneg.trans Real.arctan_lt_zero.symm⟩
    simp only [trigReal]
    rcases le_total 0 r with hr | hr
    · rw [abs_of_nonneg hr, abs_of_nonneg (Real.arctan_nonneg.mpr hr)]
    · rw [abs_of_nonpos hr, abs_of_nonpos (Real.arctan_le_zero.mpr hr), Real.arctan_neg]

/-- The ends for an argument in range enclose what its series stands for. -/
theorem seriesEnds_ratio (fn : TrigFn) {v : Extended} (h : isNumber v) (hle : |extReal v| ≤ trigLimit fn) :
    ((seriesEnds (seriesUnits fn (extValue v))).1 : ℝ) < inSeriesUnits (trigRatio fn (magnitude (extValue v)))
    ∧ inSeriesUnits (trigRatio fn (magnitude (extValue v))) < (seriesEnds (seriesUnits fn (extValue v))).2
    ∧ ((seriesEnds (seriesUnits fn (extValue v))).2 - (seriesEnds (seriesUnits fn (extValue v))).1) * 2 ^ 100
      ≤ (seriesEnds (seriesUnits fn (extValue v))).1 := by
  rw [abs_extReal] at hle
  have hlt := h.mant_bounds.2
  obtain ⟨hlow, hhigh⟩ := trigRatio_bounds h.magnitude_pos hlt hle
  have hunit : (0 : ℝ) < 2 ^ seriesBits := by positivity
  refine seriesEnds_enclose (seriesUnits_near h.magnitude_pos hlt hle) ?_ ?_
  · have hmul := mul_le_mul_of_nonneg_right hlow hunit.le
    rw [inSeriesUnits]
    refine le_trans ?_ hmul
    rw [seriesBits]
    norm_num
  · have hmul := mul_lt_mul_of_pos_right hhigh hunit
    rwa [one_mul] at hmul

/-- Ends in the units of the argument's last bit are those of the series times the significand. -/
theorem scaled_enclosure {x : Exact} {r : ℝ} {lower upper : ℕ} (h0 : 0 < x.mant) (hlow : (lower : ℝ) < inSeriesUnits r)
    (hhigh : inSeriesUnits r < upper) :
    ((x.mant * lower : ℕ) : ℝ) * 2 ^ (x.exp - seriesBits) < magnitude x * r
    ∧ magnitude x * r < ((x.mant * upper : ℕ) : ℝ) * 2 ^ (x.exp - seriesBits) := by
  have hmant : (0 : ℝ) < x.mant := Nat.cast_pos.mpr h0
  have hunit : (0 : ℝ) < 2 ^ (x.exp - seriesBits) := by positivity
  have hvalue : magnitude x * r = x.mant * inSeriesUnits r * 2 ^ (x.exp - seriesBits) := by
    rw [inSeriesUnits, zpow_sub₀ two_ne_zero, zpow_natCast, magnitude]
    field_simp
  rw [hvalue, Nat.cast_mul, Nat.cast_mul]
  exact ⟨by gcongr, by gcongr⟩

/-- Their distance scales alike. -/
theorem scaled_width (m : ℕ) {lower upper : ℕ} (h : (upper - lower) * 2 ^ 100 ≤ lower) :
    (m * upper - m * lower) * 2 ^ 100 ≤ m * lower := by
  rw [← Nat.mul_sub, mul_assoc]
  exact Nat.mul_le_mul_left m h

/-- A sine is below 1, also in units of the enclosure. -/
theorem sine_enclosure {x : Exact} {y : ℝ} {lower upper : ℕ} (hexp : x.exp ≤ 0) (hy : y < 1)
    (hlow : (lower : ℝ) * 2 ^ (x.exp - seriesBits) < y) (hhigh : y < upper * 2 ^ (x.exp - seriesBits)) :
    min lower (2 ^ (seriesBits - x.exp).toNat - 1) = lower
    ∧ y < (min upper (2 ^ (seriesBits - x.exp).toNat) : ℕ) * (2 : ℝ) ^ (x.exp - seriesBits) := by
  have hone := sineBound_mul hexp
  have hunit : (0 : ℝ) < 2 ^ (x.exp - seriesBits) := by positivity
  generalize 2 ^ (seriesBits - x.exp).toNat = one at *
  refine ⟨min_eq_left (Nat.le_sub_one_of_lt ?_), ?_⟩
  · have h := hlow.trans (hy.trans_eq hone.symm)
    exact_mod_cast lt_of_mul_lt_mul_right h hunit.le
  · rw [Nat.cast_min, min_mul_of_nonneg _ _ hunit.le, lt_min_iff, hone]
    exact ⟨hhigh, hy⟩

/-- The enclosure holds the function's magnitude, and is narrow. -/
theorem trigEnclosure_encloses (fn : TrigFn) {v : Extended} (h : isNumber v) (hle : |extReal v| ≤ trigLimit fn) :
    ((trigEnclosure fn (extValue v)).1 : ℝ) * 2 ^ (trigEnclosure fn (extValue v)).2.2
      < trigReal fn (magnitude (extValue v))
    ∧ trigReal fn (magnitude (extValue v))
      < (trigEnclosure fn (extValue v)).2.1 * (2 : ℝ) ^ (trigEnclosure fn (extValue v)).2.2
    ∧ ((trigEnclosure fn (extValue v)).2.1 - (trigEnclosure fn (extValue v)).1) * 2 ^ 100
      ≤ (trigEnclosure fn (extValue v)).1 := by
  obtain ⟨hlow, hhigh, hwidth⟩ := seriesEnds_ratio fn h hle
  have hexp := extValue_exp_nonpos h (hle.trans_lt (trigLimit_lt_two fn))
  obtain ⟨hm0, hlt⟩ := h.mant_bounds
  have h0 := h.magnitude_pos
  rw [abs_extReal] at hle
  generalize extValue v = x at *
  cases fn with
  | sin =>
    have hvalue : magnitude x * trigRatio .sin (magnitude x) = Real.sin (magnitude x) := mul_div_cancel₀ _ h0.ne'
    obtain ⟨h1, h2⟩ := scaled_enclosure hm0 hlow hhigh
    rw [hvalue] at h1 h2
    have hgap := magnitude_gap hlt hle
    have hone : Real.sin (magnitude x) < 1 := by
      have hpi := Real.pi_pos
      rw [← Real.sin_pi_div_two]
      exact Real.sin_lt_sin_of_lt_of_le_pi_div_two (by linarith) le_rfl
        (lt_of_lt_of_le (lt_add_of_pos_right _ (by norm_num)) hgap)
    obtain ⟨hmin, h2'⟩ := sine_enclosure hexp hone h1 h2
    simp only [trigEnclosure, trigReal, hmin]
    exact ⟨h1, h2', le_trans (Nat.mul_le_mul_right _ (Nat.sub_le_sub_right (min_le_left _ _) _)) (scaled_width _ hwidth)⟩
  | cos =>
    have hbits : (2 : ℝ) ^ (-(seriesBits : ℤ)) = ((2 : ℝ) ^ seriesBits)⁻¹ := by rw [zpow_neg, zpow_natCast]
    have hunit : (0 : ℝ) < 2 ^ seriesBits := by positivity
    simp only [trigEnclosure, trigReal, hbits]
    rw [← div_eq_mul_inv, ← div_eq_mul_inv, div_lt_iff₀ hunit, lt_div_iff₀ hunit]
    exact ⟨hlow, hhigh, hwidth⟩
  | atan =>
    have hvalue : magnitude x * trigRatio .atan (magnitude x) = Real.arctan (magnitude x) := mul_div_cancel₀ _ h0.ne'
    obtain ⟨h1, h2⟩ := scaled_enclosure hm0 hlow hhigh
    rw [hvalue] at h1 h2
    exact ⟨h1, h2, scaled_width _ hwidth⟩

end Sys2Proof.Machine
end

section
/-! The obligation of the enclosure: O55. -/

open Sys2Proof Sys2Proof.Machine

/-- Settles O55: the series are within the slack of the functions, whose signs are the argument's. -/
theorem trigEnclosure : Obligations.TrigEnclosure := by
  intro fn v h hle
  obtain ⟨hvalue, hsign⟩ := trigReal_sign fn h hle
  obtain ⟨hlow, hhigh, hwidth⟩ := trigEnclosure_encloses fn h hle
  rw [hvalue]
  exact ⟨hlow, hhigh, hwidth, hsign⟩
end

section
/-! NOP and the unassigned opcodes: one completion for all six (spec/47_miscellaneous.md R391, R393). -/

namespace Sys2Proof.Machine

/-- The unassigned opcodes execute exactly as NOP (spec/47_miscellaneous.md R393). -/
theorem exec_actsAsNop {i : Instr} {o : Operands} (h : actsAsNop i o) (s : State) :
    exec i s = .next (noOperation o s) := by
  rcases h with rfl | rfl | rfl | rfl | rfl | rfl <;> rfl

/-- An exempt operation with no destination leaves nothing to be delivered, in either protocol. -/
theorem completeRaw_pending_none {o : Operands} (hd : o.op3 = .none) (a : Asr) (dr : Triple) (v : Extended)
    (image : Triple) (s : State) : (completeRaw o a dr v image s).pending = .nothing := by
  rw [completeRaw_pending, hd]
  exact ite_self _

end Sys2Proof.Machine
end

section
/-! The obligation of the operations that do nothing: O60. -/

open Sys2Proof Sys2Proof.Machine

/-- Settles O60: all six end in the `completeRaw` of `noOperation`, whose ASR, DR and registers are those before it. -/
theorem noOperation : Obligations.NoOperation := by
  intro i o s hi
  refine ⟨_, exec_actsAsNop hi s, rfl, rfl, fun hd => regsAfter_noRegister hd _ s,
    fun hd => ⟨nopDr_unread s (by simp [hd]), completeRaw_pending_none hd ..⟩,
    fun hm => ?peripheral, fun hm => ?coprocessor⟩
  case peripheral => simp [Machine.noOperation, hm]
  case coprocessor => simp [Machine.noOperation, hm]
end

section
/-! The lines PIREQ# and FAULT# (spec/20_memory.md R98, R100, R125, spec/60_exceptions.md R431, R438), read off the effects
of a step. -/

namespace Sys2Proof.Machine

/-! ### PIREQ# -/

/-- The status fetch leaves PIREQ#. -/
theorem firstStatus_pireq (s : State) : (firstStatus s).pireq = s.pireq := by
  change (afterStatus s).pireq = s.pireq
  rcases afterStatus_cases s with ⟨-, e⟩ | ⟨-, -, e⟩ | ⟨r, v, -, -, e⟩ | ⟨image, -, -, e⟩ <;> rw [e] <;> rfl

/-- So does a data write. -/
theorem wordWritten_pireq (k : ℕ) (s : State) : (wordWritten k s).pireq = s.pireq := by
  unfold wordWritten
  split <;> rfl

/-- So does an operand word. -/
theorem latchWord_pireq (w : Word) (s : State) : (latchWord w s).pireq = s.pireq := by rw [latchWord_frame]

/-- An instruction asserts PIREQ# at its end in peripheral mode, where it leaves the MAU quiescent, and leaves PIREQ# in
coprocessor mode (spec/20_memory.md R98, R109). -/
theorem exec_pireq {i : Instr} {s t : State} (h : exec i s = .next t) :
    (s.modeLock = .peripheral → t.pireq = true ∧ t.phase = .quiescent)
    ∧ (s.modeLock = .coprocessor → t.pireq = s.pireq) := by
  obtain ⟨-, -, -, -, hphase, -, -, hpireq, -⟩ := exec_common h
  rw [hphase, hpireq]
  exact ⟨fun hm => by simp [hm], fun hm => by simp [hm]⟩

/-- Everything an effect can do to PIREQ#: leave it, assert it at the end of a peripheral operation, negate it for PIACK#
or a reset. -/
theorem effect_pireq {s t : State} {e : BusEvent} (h : Effect s e t) :
    t.pireq = s.pireq
    ∨ (t.pireq = true ∧ e = .elapse ∧ isExecuting s = true ∧ s.modeLock = .peripheral ∧ t.phase = .quiescent)
    ∨ (t.pireq = false ∧ (e = .piAck ∨ e = .reset)) := by
  cases h with
  | executed t hexec _ _ hrun =>
    obtain ⟨hperiph, hcoproc⟩ := exec_pireq hrun
    cases hm : s.modeLock with
    | peripheral => exact .inr (.inl ⟨(hperiph hm).1, rfl, hexec, rfl, (hperiph hm).2⟩)
    | coprocessor => exact .inl (hcoproc hm)
  | piAck => exact .inr (.inr ⟨rfl, .inl rfl⟩)
  | reset => exact .inr (.inr ⟨rfl, .inr rfl⟩)
  | writeOperand obj w => exact .inl (latchWord_pireq w s)
  | fetchTaken w dsize k v => exact .inl (latchWord_pireq v s)
  | statusFirst => exact .inl (firstStatus_pireq s)
  | wordTaken dsize k => exact .inl (wordWritten_pireq k s)
  | _ => exact .inl rfl

/-- Only a coprocessor command can be a restart (spec/10_state.md R56). -/
theorem isRestart_peripheral {s : State} (hm : s.modeLock = .peripheral) : isRestart s = false := by
  simp [isRestart, hm]

/-- When time passes a peripheral operation in progress asserts PIREQ#. -/
theorem elapse_pireq {s t : State} (hexec : isExecuting s = true) (hm : s.modeLock = .peripheral)
    (h : elapse s = .next t) : t.pireq = true := by
  cases elapse_effect h with
  | answered e out nofault haccess => exact absurd rfl haccess.2.2
  | nothingRuns hidle => exact absurd (hexec.symm.trans hidle) (by decide)
  | restarted _ _ hrestart => exact absurd (hrestart.symm.trans (isRestart_peripheral hm)) (by decide)
  | executed t _ _ _ hrun => exact ((exec_pireq hrun).1 hm).1

/-! ### FAULT# -/

/-- The event is an access on which FAULT# may be asserted: a status fetch, or with FE = 1 a data access of a size other
than a word (spec/60_exceptions.md R431). -/
def eventMayFault (s : State) (e : BusEvent) : Prop :=
  e = .statusFetch
    ∨ (s.asr.fe = true ∧ ∃ dsize ok, dsize ≠ 0b100 ∧ ((∃ w, e = .dataFetch w dsize ok) ∨ e = .dataWrite dsize ok))

theorem ne_word_of_isWord {dsize : BitVec 3} (h : isWord dsize = false) : dsize ≠ 0b100 := ne_of_beq_false h

/-- What is driven on an event asserts FAULT# on those accesses only; between accesses nothing is driven. -/
theorem effect_fault {s t : State} {e : BusEvent} (h : Effect s e t) (hf : t.bus.fault = true) : eventMayFault s e := by
  cases h with
  | statusFirst => exact .inl rfl
  | statusRepeated => exact .inl rfl
  | fetchFaulted w dsize ok k hphase hsize hfe => exact .inr ⟨hfe, dsize, ok, ne_word_of_isWord hsize, .inl ⟨w, rfl⟩⟩
  | wordFaulted dsize ok k hphase hsize hfe => exact .inr ⟨hfe, dsize, ok, ne_word_of_isWord hsize, .inr rfl⟩
  | executed t hexec _ _ hrun =>
    obtain ⟨-, -, -, -, -, -, -, -, -, hbus, -⟩ := exec_common hrun
    rw [hbus] at hf
    cases hf
  | answered e out nofault => exact absurd (hf.symm.trans nofault) (by decide)
  | broadcastAborts w ok out nofault => exact absurd (hf.symm.trans nofault) (by decide)
  | wordFailed dsize k out nofault => exact absurd (hf.symm.trans nofault) (by decide)
  | wordTaken dsize k out nofault => exact absurd (hf.symm.trans nofault) (by decide)
  | _ => cases hf

end Sys2Proof.Machine
end

section
/-! Operations cut short by a reset, and interrupt acknowledges (spec/70_reset_and_hazards.md R471, spec/60_exceptions.md
R440 to R444). -/

namespace Sys2Proof.Machine

/-! ### The ASR of an operation cut short -/

/-- A bit cut short is old or as the operation would have left it. -/
theorem mixBit_old_or_new (w : Word) (k : ℕ) (new old : Bool) : mixBit w k new old = old ∨ mixBit w k new old = new := by
  unfold mixBit
  split
  · exact .inr rfl
  · exact .inl rfl

/-- Mixing an ASR with itself changes nothing. -/
@[simp] theorem mixAll_self (w : Word) (a : Asr) : mixAll w a a = a := by
  have hbit (k : ℕ) (x : Bool) : mixBit w k x x = x := (mixBit_old_or_new w k x x).elim id id
  simp only [mixAll, mixFlags, hbit]

/-- An operation cut short has not touched ECP, CSC, WF and UW either; one that had not begun has touched nothing. -/
theorem asrCutShort_kept (s : State) :
    (asrCutShort s).ecp = s.asr.ecp ∧ (asrCutShort s).csc = s.asr.csc ∧ (asrCutShort s).wf = s.asr.wf
    ∧ (asrCutShort s).uw = s.asr.uw ∧ (isExecuting s = false → asrCutShort s = s.asr) := by
  rcases asrCutShort_cases s with ⟨-, e⟩ | ⟨hexec, e⟩ <;> rw [e]
  · exact ⟨rfl, rfl, rfl, rfl, fun _ => rfl⟩
  · exact ⟨rfl, rfl, rfl, rfl, fun hidle => absurd (hexec.symm.trans hidle) (by decide)⟩

/-- The ASR a restart would leave is the one before it but for RA, so an abort leaves it too (log 36). -/
theorem asrAborted_restart {s : State} (h : isRestart s = true) : asrAborted s = s.asr := by
  rw [asrAborted, completedAsr, if_pos h, mixAll_self]

/-- What an abort mixes with the old ASR is the ASR the instruction would have left (spec/60_exceptions.md R441). -/
theorem asrAborted_exec {s u : State} (h : isRestart s = false) (hrun : exec (currentInstr s) s = .next u) :
    asrAborted s = mixAll (Config.cutShortWrote s.draws) u.asr s.asr := by
  rw [asrAborted, completedAsr, if_neg (by simp [h]), hrun]

/-! ### Interrupt acknowledge by phase -/

theorem intAck_peripheral {s : State} (hm : s.modeLock = .peripheral) : intAck s = respond .idle s := by
  rw [intAck, hm]

theorem intAck_coprocessor {s : State} (hm : s.modeLock = .coprocessor) : intAck s = respond .idle (coprocIntAck s) := by
  rw [intAck, hm]

/-- Before DONE# it aborts the transaction. -/
theorem coprocIntAck_beforeDone {s : State} (hs : (∃ k, s.phase = .cAwaitOperands k) ∨ s.phase = .cExecuting) :
    coprocIntAck s = abortTransaction s := by
  rcases hs with ⟨k, hs⟩ | hs <;> rw [coprocIntAck, hs]

/-- After DONE# it discards the result. -/
theorem coprocIntAck_afterDone {s : State} (hs : s.phase = .cDone ∨ ∃ k, s.phase = .cAwaitWrites k) :
    coprocIntAck s = abortResult s := by
  rcases hs with hs | ⟨k, hs⟩ <;> rw [coprocIntAck, hs]

/-- In the quiescent state it leaves an RA of 1, and an RA of 0 free. -/
theorem coprocIntAck_quiescent {s : State} (hs : s.phase = .quiescent) :
    coprocIntAck s = { s with asr := { s.asr with ra := s.asr.ra || Config.freeRa s.draws } } := by
  rw [coprocIntAck, hs]

end Sys2Proof.Machine
end

section
/-! The obligations of PIREQ#, FAULT#, restarts, interrupt acknowledges and reset: O18, O22, O26, O27, O28 and O9. -/

open Sys2Proof Sys2Proof.Machine

/-- Settles O18: of all effects, those of `effect_pireq` change PIREQ#. -/
theorem pireqChanges : Obligations.PireqChanges := by
  refine ⟨fun s rest hi => step_event hi, fun s t hphase hm hi hstep => ?_, fun s t hstep => ?_⟩
  · have helapse : step s = elapse s := by simp only [step, nextEvent, hi]
    exact elapse_pireq ((isExecuting_iff s).mpr (.inl hphase)) hm (helapse.symm.trans hstep)
  · obtain ⟨e, rest, hnext, h⟩ := step_effect hstep
    rcases effect_pireq h with hkept | ⟨hset, rfl, hexec, hm, hquiet⟩ | ⟨hclear, he⟩
    · exact ⟨fun h0 h1 => absurd ((hkept.trans h0).symm.trans h1) (by decide),
        fun h1 h0 => absurd ((hkept.trans h1).symm.trans h0) (by decide)⟩
    · exact ⟨fun _ _ => ⟨hexec, hm, comesNext_elapse hnext, hquiet⟩,
        fun _ h0 => absurd (hset.symm.trans h0) (by decide)⟩
    · refine ⟨fun _ h1 => absurd (hclear.symm.trans h1) (by decide), fun _ _ => ⟨rest, ?_⟩⟩
      rcases he with rfl | rfl
      · exact .inl (comesNext_access hnext (by simp))
      · exact .inr (comesNext_access hnext (by simp))

/-- Settles O22: the effects that drive FAULT# are those of `effect_fault`. -/
theorem faultOutputOnlyOn : Obligations.FaultOutputOnlyOn := by
  intro s t hstep hf
  obtain ⟨e, rest, hnext, h⟩ := step_effect hstep
  rcases effect_fault h hf with rfl | ⟨hfe, dsize, ok, hsize, ⟨w, rfl⟩ | rfl⟩
  · exact .inl ⟨rest, comesNext_access hnext (by simp)⟩
  · exact .inr ⟨hfe, dsize, ok, rest, hsize, .inl ⟨w, comesNext_access hnext (by simp)⟩⟩
  · exact .inr ⟨hfe, dsize, ok, rest, hsize, .inr (comesNext_access hnext (by simp))⟩

/-- Settles O26: the step is `completeRestart`, whose words are those of DR if there is a memory destination. -/
theorem restartNotExecuted : Obligations.RestartNotExecuted := by
  intro s hphase hm hwf hexempt hready hi
  have hrestart : isRestart s = true := by simp [isRestart, currentInstr, hm, hwf, hexempt]
  have hstep : step s = .next (completeRestart s) := by
    simp only [step, nextEvent, hi]
    rw [elapse_executing ((isExecuting_iff s).mpr (.inr hphase)), runCurrent, if_pos hready, if_pos hrestart]
  refine ⟨_, hstep, rfl, rfl, rfl, rfl, rfl, rfl, fun n hd => ?_, fun hd => ?_⟩ <;>
    rw [completeRestart_pending, restartPending, currentInstr]
  · rw [hd]
  · split
    · next n hn => exact absurd hn (hd n)
    all_goals rfl

/-- Settles O27: the acknowledge is only answered. -/
theorem intAckIgnored : Obligations.IntAckIgnored := by
  intro s rest hm hi
  rw [step_event hi]
  exact congrArg Host.Outcome.next (intAck_peripheral (s := { s with inbox := rest }) hm)

/-- Settles O28: after DONE#, in the quiescent state and before DONE#; there each bit of the ASR is mixed of the old one
and the one the instruction would have left, and the two are the same for a restart. -/
theorem intAckAborts : Obligations.IntAckAborts := by
  refine ⟨fun s rest hm hs hi => ?_, fun s rest hm hs hi => ?_, fun s rest hm hs hi => ?_⟩ <;>
    rw [step_event hi] <;> have e := intAck_coprocessor (s := { s with inbox := rest }) hm
  · rw [coprocIntAck_afterDone (s := { s with inbox := rest }) hs] at e
    exact ⟨_, congrArg Host.Outcome.next e, rfl, ⟨rfl, rfl⟩, ⟨rfl, rfl, rfl⟩, rfl, rfl, rfl, rfl, rfl⟩
  · rw [coprocIntAck_quiescent (s := { s with inbox := rest }) hs] at e
    exact ⟨_, congrArg Host.Outcome.next e, fun hra => by simp [hra]⟩
  · rw [coprocIntAck_beforeDone (s := { s with inbox := rest }) hs] at e
    have hdr (h : isExecuting { s with inbox := rest } = true → isRestart { s with inbox := rest } = true) :
        (abortTransaction { s with inbox := rest }).dr = s.dr := by
      by_contra hne
      obtain ⟨hexec, hrestart⟩ := abortTransaction_dr hne
      exact absurd ((h hexec).symm.trans hrestart) (by decide)
    refine ⟨_, congrArg Host.Outcome.next e, rfl, ⟨rfl, rfl⟩, ⟨rfl, rfl, rfl⟩, rfl, rfl,
      ⟨rfl, rfl, rfl, rfl, rfl, rfl, rfl, rfl⟩, rfl, rfl, fun hphase => hdr fun hexec => ?_,
      fun hrestart => ⟨?_, hdr fun _ => hrestart⟩, fun u hrestart hrun => ?_⟩
    · obtain ⟨k, hk⟩ := hs.resolve_right hphase
      simp [isExecuting_iff, hk] at hexec
    · exact congrArg (fun a : Asr => { a with ra := true }) (asrAborted_restart (s := { s with inbox := rest }) hrestart)
    · have hasr : (respond .idle (abortTransaction { s with inbox := rest })).asr
          = { mixAll (Config.cutShortWrote s.draws) u.asr s.asr with ra := true } :=
        congrArg (fun a : Asr => { a with ra := true })
          (asrAborted_exec (s := { s with inbox := rest }) hrestart hrun)
      have hmix := mixBit_old_or_new (Config.cutShortWrote s.draws)
      rw [hasr]
      exact ⟨hmix .., hmix .., hmix .., hmix .., hmix .., hmix .., hmix .., hmix .., hmix .., hmix .., hmix .., hmix ..⟩

/-- Settles O9: reset abandons the transaction, and `asrCutShort` is all it does to the ASR. -/
theorem resetKeepsRegisters : Obligations.ResetKeepsRegisters := by
  intro s rest hi
  rw [step_event hi]
  obtain ⟨hcontrols, hra⟩ := asrCutShort_frame { s with inbox := rest }
  obtain ⟨hecp, hcsc, hwf, huw, hidle⟩ := asrCutShort_kept { s with inbox := rest }
  exact ⟨_, rfl, rfl, ⟨rfl, rfl⟩, ⟨rfl, rfl, rfl⟩, rfl, rfl, rfl, rfl, rfl, rfl, hcontrols, hra, hecp, hcsc, hwf, huw,
    hidle⟩
end

section
/-! What a handler finds in DR (spec/60_exceptions.md R415 to R420): the fault format, and the narrow image of an inexact
single or double result in peripheral mode (D42, log 35). -/

namespace Sys2Proof.Machine

/-! ### The fault format -/

/-- A fault image made of known fields holds them (spec/60_exceptions.md R415). -/
theorem faultImage_bits (lgrs : Option (BitVec 4)) (free : BitVec 4) (gap : BitVec 10) (neg : Bool) (exponent : ℤ) {n : ℕ}
    (hn : n < 2 ^ 64) :
    faultBits (faultImage (lgrs.getD free) gap neg (BitVec.ofInt 17 (exponent + 16383)) (BitVec.ofNat 64 n))
      lgrs neg exponent n := by
  obtain ⟨hsign, hexp, hsig, hlgrs⟩ := faultImage_fields (lgrs.getD free) gap neg
    (BitVec.ofInt 17 (exponent + 16383)) (BitVec.ofNat 64 n)
  refine ⟨fun b hb => ?_, hsign, hexp, ?_⟩
  · rw [hlgrs, hb, Option.getD_some]
  · rw [hsig, BitVec.toNat_ofNat, Nat.mod_eq_of_lt hn]

/-- So does the fault image of a double-extended pattern, whose exponent field fits the 17 bits. -/
theorem faultImageOf_bits (lgrs : Option (BitVec 4)) (free : BitVec 4) (gap : BitVec 10) (v : Extended) :
    faultBitsOf (faultImageOf v (lgrs.getD free) gap) lgrs v := by
  have himage := faultImage_bits lgrs free gap (extSign v) ((v.extractLsb' 64 15).toNat - 16383)
    (v.extractLsb' 0 64).isLt
  rw [sub_add_cancel, BitVec.ofInt_natCast, BitVec.ofNat_toNat 64, BitVec.setWidth_eq] at himage
  exact himage

/-! ### The narrow image -/

/-- The low 64 bits of a narrow image are the number put there. -/
theorem narrowImage_low (head : BitVec 32) {n : ℕ} (hn : n < 2 ^ 64) :
    ((head ++ BitVec.ofNat 64 n).extractLsb' 0 64).toNat = n := by
  rw [BitVec.extractLsb'_append_eq_right, BitVec.toNat_ofNat, Nat.mod_eq_of_lt hn]

/-- A number whose unit in the last place the precision has is whole units of its exponent, denormalized ones of the
smallest one: `finiteFields` gives a significand of at most `P` bits that keeps its value (spec/40_data_formats.md R211). -/
theorem finiteFields_significand {p : Prec} {sig : ℕ} {lsb : ℤ} (h0 : 0 < sig)
    (h : ∃ (m : ℕ) (e : ℤ), (sig : ℝ) * (2 : ℝ) ^ lsb = m * (2 : ℝ) ^ e ∧ m < 2 ^ precBits p ∧ precLeast p ≤ e) :
    (finiteFields p sig lsb).2 < 2 ^ precBits p
    ∧ ((finiteFields p sig lsb).2 : ℝ) * (2 : ℝ) ^ (max ((sig.log2 : ℤ) + lsb) (precEmin p) - precBits p + 1)
      = sig * (2 : ℝ) ^ lsb := by
  obtain ⟨m, e, hvalue, hm, he⟩ := h
  have hleast : precLeast p = precEmin p - precBits p + 1 := rfl
  have htop : (sig.log2 : ℤ) + lsb < precBits p + e := by
    rw [log2_add_lt_iff h0, hvalue, zpow_add₀ two_ne_zero, zpow_natCast]
    exact mul_lt_mul_of_pos_right (by exact_mod_cast hm) (by positivity)
  obtain ⟨g, hg⟩ : ∃ g, g = max ((sig.log2 : ℤ) + lsb) (precEmin p) - precBits p + 1 := ⟨_, rfl⟩
  have hfields : (finiteFields p sig lsb).2 = scale sig (lsb - g) := by
    simp only [finiteFields]
    split
    · next hlow => rw [hg, hleast, max_eq_right hlow.le]
    · next hhigh => rw [hg, max_eq_left (not_lt.mp hhigh)]
  obtain ⟨k, rfl⟩ := Int.le.dest (show g ≤ e by omega)
  have hunits : (sig : ℝ) * (2 : ℝ) ^ lsb = (m * 2 ^ k : ℕ) * (2 : ℝ) ^ g := by
    rw [hvalue, zpow_add₀ two_ne_zero, zpow_natCast]
    push_cast
    ring
  have hlog := log2_add_eq h0 hunits
  have hpos := pos_of_mul_zpow_eq h0 hunits
  rw [hfields, scale_exact hunits, ← hg]
  exact ⟨(Nat.log2_lt hpos.ne').mp (by omega), hunits.symm⟩

/-- Every precision's significand fits 64 bits. -/
theorem lt_two_pow_64 {p : Prec} {n : ℕ} (h : n < 2 ^ precBits p) : n < 2 ^ 64 :=
  h.trans_le (Nat.pow_le_pow_right (by decide) (precBits_bounds p).2)

/-- The significand of an infinity is its implicit bit. -/
theorem infinitySignificand_bounds (p : Prec) (implicitBit : Bool) :
    infinitySignificand p implicitBit < 2 ^ precBits p
    ∧ infinitySignificand p implicitBit % 2 ^ (precBits p - 1) = 0 := by
  cases p <;> cases implicitBit <;> decide

/-! ### An inexact result -/

section
variable {mode : Mode} {p : Prec} (draw : ℕ)

/-- A wide image is the fault image of the double-extended result, but for a number lost to gradual underflow. -/
theorem inexactDr_wide (hn : ¬ narrowImage mode p) (neg gradual : Bool) (lgrs : BitVec 4) :
    (∀ sig lsb, inexactDr mode draw (.finite neg sig lsb) p false lgrs
      = faultImageOf (encodeExtended (.finite neg sig lsb)) lgrs (Config.freeGap draw))
    ∧ inexactDr mode draw (.zero neg) p gradual lgrs
      = faultImageOf (encodeExtended (.zero neg)) lgrs (Config.freeGap draw)
    ∧ inexactDr mode draw (.infinity neg) p gradual lgrs
      = faultImageOf (encodeExtended (.infinity neg)) lgrs (Config.freeGap draw) := by
  unfold narrowImage at hn
  exact ⟨fun sig lsb => by simp [inexactDr, hn], if_neg hn, if_neg hn⟩

/-- That number is unnormalized with the exponent `Emin - 1` (spec/60_exceptions.md R419). -/
theorem inexactDr_gradual (hn : ¬ narrowImage mode p) (neg : Bool) {sig : ℕ} {lsb : ℤ}
    (hlow : (sig.log2 : ℤ) + lsb < precEmin p) (lgrs : BitVec 4) :
    inexactDr mode draw (.finite neg sig lsb) p true lgrs
      = faultImage lgrs (Config.freeGap draw) neg (BitVec.ofInt 17 (precEmin p - 1 + 16383))
          (BitVec.ofNat 64 (sig * 2 ^ (64 - precBits p))) := by
  unfold narrowImage at hn
  simp [inexactDr, hn, hlow, Nat.shiftLeft_eq]

/-- A narrow image holds the significand in the result's own precision, an infinity's being its implicit bit
(spec/60_exceptions.md R420). -/
theorem inexactDr_narrow (hn : narrowImage mode p) (neg gradual : Bool) (lgrs : BitVec 4) :
    (∀ (sig : ℕ) lsb, (gradual = true → (sig.log2 : ℤ) + lsb < precEmin p) →
      inexactDr mode draw (.finite neg sig lsb) p gradual lgrs
        = Config.freeNarrowHead draw ++ BitVec.ofNat 64 (finiteFields p sig lsb).2)
    ∧ inexactDr mode draw (.zero neg) p gradual lgrs = Config.freeNarrowHead draw ++ 0#64
    ∧ inexactDr mode draw (.infinity neg) p gradual lgrs = Config.freeNarrowHead draw
      ++ BitVec.ofNat 64 (infinitySignificand p (Config.freeImplicitBit draw)) := by
  refine ⟨fun sig lsb hlow => ?_, if_pos hn, if_pos hn⟩
  have hkept : ¬ (gradual = true ∧ precEmin p ≤ (sig.log2 : ℤ) + lsb) := fun ⟨hg, hle⟩ => absurd hle (not_le.mpr (hlow hg))
  exact (if_neg hkept).trans (if_pos hn)

/-- The handler finds the inexact result in the format of its precision and protocol. -/
theorem inexactDr_found (r : Datum) (gradual : Bool) (lgrs : Option (BitVec 4)) :
    inexactFound mode (inexactDr mode draw r p gradual (lgrs.getD (Config.freeLgrs draw))) p gradual lgrs r := by
  have wide (v : Extended) := faultImageOf_bits lgrs (Config.freeLgrs draw) (Config.freeGap draw) v
  cases r with
  | finite neg sig lsb =>
    refine ⟨fun hn hg => ?_, fun hn hg hlsb h0 hsig => ?_, fun hn hlow h0 hheld => ?_⟩
    · subst hg
      obtain ⟨hfinite, -⟩ := inexactDr_wide draw hn neg false (lgrs.getD (Config.freeLgrs draw))
      rw [hfinite]
      exact wide _
    · subst hg
      obtain ⟨hbits, hbits'⟩ := precBits_bounds p
      have hlog : sig.log2 < precBits p - 1 := (Nat.log2_lt h0.ne').mpr hsig
      have hleast : precLeast p = precEmin p - precBits p + 1 := rfl
      rw [inexactDr_gradual draw hn neg (by omega)]
      refine faultImage_bits lgrs _ _ neg _ ?_
      calc sig * 2 ^ (64 - precBits p) < 2 ^ (precBits p - 1) * 2 ^ (64 - precBits p) :=
            Nat.mul_lt_mul_of_pos_right hsig (by positivity)
        _ = 2 ^ (precBits p - 1 + (64 - precBits p)) := (pow_add ..).symm
        _ ≤ 2 ^ 64 := Nat.pow_le_pow_right (by decide) (by omega)
    · obtain ⟨hfinite, -⟩ := inexactDr_narrow draw hn neg gradual (lgrs.getD (Config.freeLgrs draw))
      obtain ⟨hlt, hvalue⟩ := finiteFields_significand h0 hheld
      rw [hfinite sig lsb hlow, narrowImage_low _ (lt_two_pow_64 hlt)]
      exact hvalue
  | zero neg =>
    refine ⟨fun hn => ?_, fun hn => ?_⟩
    · obtain ⟨-, hzero, -⟩ := inexactDr_wide draw hn neg gradual (lgrs.getD (Config.freeLgrs draw))
      rw [hzero]
      exact wide _
    · obtain ⟨-, hzero, -⟩ := inexactDr_narrow draw hn neg gradual (lgrs.getD (Config.freeLgrs draw))
      rw [hzero]
      exact BitVec.extractLsb'_append_eq_right
  | infinity neg =>
    refine ⟨fun hn => ?_, fun hn => ?_⟩
    · obtain ⟨-, -, hinf⟩ := inexactDr_wide draw hn neg gradual (lgrs.getD (Config.freeLgrs draw))
      rw [hinf]
      exact wide _
    · obtain ⟨-, -, hinf⟩ := inexactDr_narrow draw hn neg gradual (lgrs.getD (Config.freeLgrs draw))
      have hbounds := infinitySignificand_bounds p (Config.freeImplicitBit draw)
      rw [hinf, narrowImage_low _ (lt_two_pow_64 hbounds.1)]
      exact hbounds
  | generatedNan => trivial
  | nan neg j f => trivial

end

/-! ### Every exception -/

/-- DR after a signalled exception holds what the handler is to find. -/
theorem trapDr_found (mode : Mode) (draw : ℕ) (info : TrapInfo) : handlerFinds mode (trapDr mode draw info) info := by
  cases info with
  | unspecified => trivial
  | operand v => exact faultImageOf_bits none (Config.freeLgrs draw) (Config.freeGap draw) v
  | rounded neg top sig64 lgrs => exact faultImage_bits (some lgrs) lgrs (Config.freeGap draw) neg top
  | inexact r p gradual lgrs => exact inexactDr_found draw r gradual lgrs

/-- An operation that signals takes the exception. -/
theorem exec_signals {i : Instr} {s : State} {r : OpResult} {info : TrapInfo} (hop : operationOf i s = some r)
    (ht : r.trap = some info) : exec i s = .next (raiseException r info s) := by
  rw [exec_operation hop, completeOperation, ht]

end Sys2Proof.Machine
end

section
/-! The obligation of taking an exception: O30. -/

open Sys2Proof Sys2Proof.Machine

/-- Settles O30: the fields of `raiseException`; DR is `trapDr`, in which the handler finds the information. -/
theorem exceptionTaken : Obligations.ExceptionTaken := by
  intro i s r info hop ht
  refine ⟨_, exec_signals hop ht, by simp [ht], rfl, rfl, rfl, raiseException_pending .., rfl,
    trapDr_found s.modeLock s.draws info, (asrAfter_frame s.asr r).1, fun hm => ?peripheral, fun hm => ?coprocessor⟩
  case peripheral => simp [hm]
  case coprocessor => simp [hm]
end

section
/-! With the masks and NTNC at 0 no operation signals an exception (spec/60_exceptions.md R407, R413, R414): the shared ends
first, then each operation, whose every branch is one of them. -/

namespace Sys2Proof.Machine

/-! ### The shared ends -/

section
variable {o : Operands} {s : State}

theorem deliverDatum_trap (d : Datum) : (deliverDatum o s d).trap = none := rfl

theorem deliverFinished_trap (r : Finished) : (deliverFinished o s r).trap = r.trap := rfl

theorem compareResult_trap (invalid : Bool) (flags : CondFlags) (trap : Option TrapInfo) :
    (compareResult s invalid flags trap).trap = trap := rfl

theorem convertedResult_trap (is ps : Bool) (flags : CondFlags) (trap : Option TrapInfo) (image : Triple) :
    (convertedResult s is ps flags trap image).trap = trap := rfl

theorem withPartial_trap (isPartial : Bool) (r : OpResult) : (withPartial isPartial r).trap = r.trap := rfl

variable (h : nothingEnabled s.asr)
include h

theorem invalidEnabled_eq_false : invalidEnabled s.asr = false := by
  obtain ⟨him, -, -, -, -, hntnc⟩ := h
  rw [invalidEnabled, him, hntnc]
  rfl

/-- `Finish` signals overflow only with OM, underflow only with UM, inexact only with PM. -/
theorem finish_trap (p : Prec) (rc : RoundMode) (forced : Bool) (z : Exact) : (finish s.asr p rc forced z).trap = none := by
  obtain ⟨-, hom, hum, -, hpm, -⟩ := h
  have hinexact (inexact os us : Bool) (info : TrapInfo) (r : Datum) :
      (finishInexact s.asr inexact os us info r).trap = none := by simp [finishInexact, hpm]
  simp only [finish, hom, hum, Bool.false_eq_true, if_false, apply_ite Finished.trap, hinexact, ite_self]

theorem deliverExact_trap (z : Exact) : (deliverExact o s z).trap = none := finish_trap h ..

theorem deliverNumber_trap (v : Extended) : (deliverNumber o s v).trap = none := by
  rcases deliverNumber_cases o s v with ⟨-, -, e⟩ | ⟨-, e⟩ <;> rw [e] <;> exact deliverExact_trap h _

theorem deliverOperand_trap (v : Extended) : (deliverOperand o s v).trap = none := by
  rcases deliverOperand_cases o s v with ⟨-, e⟩ | ⟨-, e⟩ | ⟨-, e⟩ | ⟨-, e⟩ <;> rw [e]
  case inr.inr.inr => exact deliverNumber_trap h v
  all_goals exact deliverDatum_trap _

theorem invalidOperation_trap (info : TrapInfo) : (invalidOperation o s info).trap = none := by
  rw [invalidOperation, if_neg (by simp [invalidEnabled_eq_false h])]
  rfl

theorem invalidPair_trap (a b : Extended) : (invalidPair o s a b).trap = none := invalidOperation_trap h _

theorem divideByZero_trap (a b : Extended) : (divideByZero o s a b).trap = none := by
  obtain ⟨-, -, -, hqm, -, -⟩ := h
  simp only [divideByZero, hqm, Bool.false_eq_true, if_false, deliverDatum_trap]

theorem convertedInexact_trap (inexact : Bool) (flags : CondFlags) (image : Triple) :
    (convertedInexact s inexact flags image).trap = none := by
  obtain ⟨-, -, -, -, hpm, -⟩ := h
  simp only [convertedInexact, hpm, Bool.and_false, Bool.false_eq_true, if_false, convertedResult_trap]

/-! ### Arithmetic -/

theorem moveOperation_trap (a v : Extended) : (moveOperation o s a v).trap = none := by
  simp only [moveOperation, apply_ite OpResult.trap, invalidOperation_trap h, deliverOperand_trap h, ite_self]

theorem sumOperation_trap (x y : Exact) : (sumOperation o s x y).trap = none := by
  simp only [sumOperation, apply_ite OpResult.trap, deliverDatum_trap, deliverExact_trap h, ite_self]

theorem addOperation_trap (a b : Extended) : (addOperation o s a b).trap = none := by
  simp only [addOperation, apply_ite OpResult.trap, invalidPair_trap h, deliverOperand_trap h, deliverDatum_trap,
    sumOperation_trap h, ite_self]

theorem mulOperation_trap (a b : Extended) : (mulOperation o s a b).trap = none := by
  simp only [mulOperation, apply_ite OpResult.trap, invalidPair_trap h, deliverOperand_trap h, deliverDatum_trap,
    deliverExact_trap h, ite_self]

theorem divOperation_trap (a b : Extended) : (divOperation o s a b).trap = none := by
  simp only [divOperation, apply_ite OpResult.trap, invalidPair_trap h, deliverOperand_trap h, deliverDatum_trap,
    divideByZero_trap h, deliverExact_trap h, ite_self]

theorem remOperation_trap (a b : Extended) : (remOperation o s a b).trap = none := by
  have hremainder (r e : ℤ) : (deliverRemainder o s b r e).trap = none := by
    simp only [deliverRemainder, apply_ite OpResult.trap, deliverDatum_trap, deliverExact_trap h, ite_self]
  simp only [remOperation, apply_ite OpResult.trap, invalidPair_trap h, deliverOperand_trap h, deliverDatum_trap,
    withPartial_trap, hremainder, ite_self]

theorem sqrtOperation_trap (a : Extended) : (sqrtOperation o s a).trap = none := by
  unfold sqrtOperation
  cases classify a <;>
    simp only [apply_ite OpResult.trap, invalidOperation_trap h, deliverOperand_trap h, deliverExact_trap h, ite_self]

theorem rtoiOperation_trap (a : Extended) : (rtoiOperation o s a).trap = none := by
  have hrounded (x : Exact) : (roundIntegral o s x).trap = none := finish_trap h ..
  unfold rtoiOperation
  cases classify a <;> simp only [invalidOperation_trap h, deliverOperand_trap h, hrounded]

/-! ### Compares and conversions -/

theorem compareOperation_trap (strict : Bool) (assign : Relation → CondFlags) :
    (compareOperation strict assign o s).trap = none := by
  rcases compareOperation_cases strict assign o s with ⟨-, hen, -⟩ | ⟨-, e⟩
  · exact absurd (hen.symm.trans (invalidEnabled_eq_false h)) (by decide)
  · rw [e, compareResult_trap]

theorem dtofOperation_trap : (dtofOperation o s).trap = none := by
  have hdecimal (t : Triple) : (fromDecimal o s t).trap = none := by
    unfold fromDecimal
    cases decClassify t <;>
      simp only [apply_ite OpResult.trap, invalidOperation_trap h, deliverDatum_trap, deliverExact_trap h, ite_self]
  simp only [dtofOperation, apply_ite OpResult.trap, invalidOperation_trap h, hdecimal, ite_self]

theorem itofOperation_trap : (itofOperation o s).trap = none := by
  simp only [itofOperation, apply_ite OpResult.trap, invalidOperation_trap h, deliverDatum_trap, deliverExact_trap h,
    ite_self]

theorem toIntegerInvalid_trap (a : Extended) : (toIntegerInvalid s a).trap = none := by
  rw [toIntegerInvalid, convertedResult_trap, if_neg (by simp [invalidEnabled_eq_false h])]

theorem ftoiOperation_trap (a : Extended) : (ftoiOperation o s a).trap = none := by
  have hregister : (ftoiSpecialToRegister o s a).trap = none := toIntegerInvalid_trap h a
  simp only [ftoiOperation, toInteger, apply_ite OpResult.trap, hregister, invalidOperation_trap h,
    toIntegerInvalid_trap h, convertedResult_trap, convertedInexact_trap h, ite_self]

theorem ftodOperation_trap (a : Extended) : (ftodOperation o s a).trap = none := by
  have hspecial (neg : Bool) (nibble : BitVec 4) : (decimalSpecial o s neg nibble).trap = none := convertedResult_trap ..
  have hinvalid : (toDecimalInvalid o s a).trap = none := by
    simp only [toDecimalInvalid, invalidEnabled_eq_false h, Bool.false_eq_true, if_false, hspecial]
  have hnumber (x : Exact) : (toDecimal o s x).trap = none := by
    simp only [toDecimal, apply_ite OpResult.trap, convertedResult_trap, convertedInexact_trap h, ite_self]
  rw [ftodOperation, apply_ite OpResult.trap, invalidOperation_trap h]
  cases classify a <;> simp only [hinvalid, hspecial, hnumber, ite_self]

/-! ### Transcendental functions -/

theorem trigOperation_trap (fn : TrigFn) (a : Extended) : (trigOperation fn o s a).trap = none := by
  have hzero : (trigOfZero fn o s a).trap = none := by cases fn <;> rfl
  have hnumber : (trigOfNumber fn o s a).trap = none := finish_trap h ..
  unfold trigOperation
  cases classify a <;>
    simp only [apply_ite OpResult.trap, invalidOperation_trap h, deliverOperand_trap h, hzero, hnumber, ite_self]

theorem piOperation_trap : (piOperation o s).trap = none := finish_trap h ..

end

/-! ### Every operation -/

/-- Whatever the operation, it signals nothing. -/
theorem operationOf_trap {i : Instr} {s : State} {r : OpResult} (h : nothingEnabled s.asr)
    (hop : operationOf i s = some r) : r.trap = none := by
  cases i with
  | add o => cases hop; exact addOperation_trap h ..
  | sub o => cases hop; exact addOperation_trap h ..
  | div o => cases hop; exact divOperation_trap h ..
  | rem o => cases hop; exact remOperation_trap h ..
  | mul o => cases hop; exact mulOperation_trap h ..
  | move o => cases hop; exact moveOperation_trap h ..
  | cmp o => cases hop; exact compareOperation_trap h ..
  | cmpe o => cases hop; exact compareOperation_trap h ..
  | cmps o => cases hop; exact compareOperation_trap h ..
  | cmpes o => cases hop; exact compareOperation_trap h ..
  | abs o => cases hop; exact moveOperation_trap h ..
  | neg o => cases hop; exact moveOperation_trap h ..
  | sqrt o => cases hop; exact sqrtOperation_trap h ..
  | rtoi o => cases hop; exact rtoiOperation_trap h ..
  | ftoi o => cases hop; exact ftoiOperation_trap h ..
  | itof o => cases hop; exact itofOperation_trap h
  | dtof o => cases hop; exact dtofOperation_trap h
  | ftod o => cases hop; exact ftodOperation_trap h ..
  | sin o => cases hop; exact trigOperation_trap h ..
  | cos o => cases hop; exact trigOperation_trap h ..
  | atan o => cases hop; exact trigOperation_trap h ..
  | pi o => cases hop; exact piOperation_trap h
  | _ => cases hop

/-- An operation that is not exempt has a result (spec/41_operation_model.md R220). -/
theorem exists_operationOf {i : Instr} (s : State) (h : i.exempt = false) : ∃ r, operationOf i s = some r :=
  Option.isSome_iff_exists.mp (by rw [operationOf_isSome, h]; rfl)

end Sys2Proof.Machine
end

section
/-! NTNC acts as the mask IM (spec/60_exceptions.md R413): what an operation does with IM = 1 instead of NTNC = 1. Of the
ASR an operation reads RC, the other masks, and whether invalid operations are enabled, which is so either way. -/

namespace Sys2Proof.Machine

/-- The same state with IM = 1. -/
def State.imSet (s : State) : State := { s with asr := { s.asr with im := true } }

/-! ### What does not read IM -/

section
variable (o : Operands) (s : State)

@[simp] theorem draws_imSet : s.imSet.draws = s.draws := rfl
@[simp] theorem source1_imSet : source1 o s.imSet = source1 o s := rfl
@[simp] theorem source2_imSet : source2 o s.imSet = source2 o s := rfl
@[simp] theorem tripleOp1_imSet : tripleOp1 o s.imSet = tripleOp1 o s := rfl
@[simp] theorem roundMode_imSet : roundMode o s.imSet = roundMode o s := rfl
@[simp] theorem destPrec_imSet : destPrec o s.imSet = destPrec o s := rfl
@[simp] theorem deliverDatum_imSet (d : Datum) : deliverDatum o s.imSet d = deliverDatum o s d := rfl
@[simp] theorem deliverFinished_imSet (r : Finished) : deliverFinished o s.imSet r = deliverFinished o s r := rfl

@[simp] theorem finish_imSet (p : Prec) (rc : RoundMode) (forced : Bool) (z : Exact) :
    finish s.imSet.asr p rc forced z = finish s.asr p rc forced z := rfl

@[simp] theorem deliverExact_imSet (z : Exact) : deliverExact o s.imSet z = deliverExact o s z := rfl
@[simp] theorem deliverOperand_imSet (v : Extended) : deliverOperand o s.imSet v = deliverOperand o s v := rfl
@[simp] theorem divideByZero_imSet (a b : Extended) : divideByZero o s.imSet a b = divideByZero o s a b := rfl
@[simp] theorem sumOperation_imSet (x y : Exact) : sumOperation o s.imSet x y = sumOperation o s x y := rfl

@[simp] theorem deliverRemainder_imSet (b : Extended) (r e : ℤ) :
    deliverRemainder o s.imSet b r e = deliverRemainder o s b r e := rfl

@[simp] theorem roundIntegral_imSet (x : Exact) : roundIntegral o s.imSet x = roundIntegral o s x := rfl

@[simp] theorem compareResult_imSet (invalid : Bool) (flags : CondFlags) (trap : Option TrapInfo) :
    compareResult s.imSet invalid flags trap = compareResult s invalid flags trap := rfl

@[simp] theorem toInteger_imSet (x : Exact) : toInteger o s.imSet x = toInteger o s x := rfl

@[simp] theorem decimalSpecial_imSet (neg : Bool) (nibble : BitVec 4) :
    decimalSpecial o s.imSet neg nibble = decimalSpecial o s neg nibble := rfl

@[simp] theorem toDecimal_imSet (x : Exact) : toDecimal o s.imSet x = toDecimal o s x := rfl

@[simp] theorem trigOfZero_imSet (fn : TrigFn) (a : Extended) : trigOfZero fn o s.imSet a = trigOfZero fn o s a := rfl

/-- The internal result is chosen with the masks cleared, IM among them. -/
@[simp] theorem trigOfNumber_imSet (fn : TrigFn) (a : Extended) : trigOfNumber fn o s.imSet a = trigOfNumber fn o s a := rfl

@[simp] theorem piOperation_imSet : piOperation o s.imSet = piOperation o s := rfl

end

/-! ### What reads IM -/

@[simp] theorem invalidEnabled_imSet (s : State) : invalidEnabled s.imSet.asr = true := rfl

section
variable {o : Operands} {s : State} (h : invalidEnabled s.asr = true)
include h

theorem invalidOperation_imSet (info : TrapInfo) : invalidOperation o s.imSet info = invalidOperation o s info := by
  rw [invalidOperation, invalidOperation, if_pos h, if_pos (invalidEnabled_imSet s)]
  rfl

theorem invalidPair_imSet (a b : Extended) : invalidPair o s.imSet a b = invalidPair o s a b := invalidOperation_imSet h _

theorem moveOperation_imSet (a v : Extended) : moveOperation o s.imSet a v = moveOperation o s a v := by
  simp [moveOperation, invalidOperation_imSet h]

theorem addOperation_imSet (a b : Extended) : addOperation o s.imSet a b = addOperation o s a b := by
  simp [addOperation, invalidPair_imSet h]

theorem mulOperation_imSet (a b : Extended) : mulOperation o s.imSet a b = mulOperation o s a b := by
  simp [mulOperation, invalidPair_imSet h]

theorem divOperation_imSet (a b : Extended) : divOperation o s.imSet a b = divOperation o s a b := by
  simp [divOperation, invalidPair_imSet h]

theorem remOperation_imSet (a b : Extended) : remOperation o s.imSet a b = remOperation o s a b := by
  simp [remOperation, invalidPair_imSet h]

theorem sqrtOperation_imSet (a : Extended) : sqrtOperation o s.imSet a = sqrtOperation o s a := by
  simp [sqrtOperation, invalidOperation_imSet h]

theorem rtoiOperation_imSet (a : Extended) : rtoiOperation o s.imSet a = rtoiOperation o s a := by
  simp [rtoiOperation, invalidOperation_imSet h]

theorem compareOperation_imSet (strict : Bool) (assign : Relation → CondFlags) :
    compareOperation strict assign o s.imSet = compareOperation strict assign o s := by
  unfold compareOperation
  rw [h, invalidEnabled_imSet]
  rfl

theorem dtofOperation_imSet : dtofOperation o s.imSet = dtofOperation o s := by
  simp [dtofOperation, fromDecimal, invalidOperation_imSet h]

theorem itofOperation_imSet : itofOperation o s.imSet = itofOperation o s :=
  if_congr Iff.rfl (invalidOperation_imSet h _) rfl

theorem toIntegerInvalid_imSet (a : Extended) : toIntegerInvalid s.imSet a = toIntegerInvalid s a := by
  rw [toIntegerInvalid, toIntegerInvalid, if_pos h, if_pos (invalidEnabled_imSet s)]
  rfl

theorem ftoiOperation_imSet (a : Extended) : ftoiOperation o s.imSet a = ftoiOperation o s a := by
  have hregister : ftoiSpecialToRegister o s.imSet a = ftoiSpecialToRegister o s a := by
    rw [ftoiSpecialToRegister, toIntegerInvalid_imSet h]
    rfl
  simp [ftoiOperation, hregister, invalidOperation_imSet h, toIntegerInvalid_imSet h]

theorem ftodOperation_imSet (a : Extended) : ftodOperation o s.imSet a = ftodOperation o s a := by
  have hinvalid : toDecimalInvalid o s.imSet a = toDecimalInvalid o s a := by
    simp [toDecimalInvalid, h]
  simp [ftodOperation, hinvalid, invalidOperation_imSet h]

theorem trigOperation_imSet (fn : TrigFn) (a : Extended) : trigOperation fn o s.imSet a = trigOperation fn o s a := by
  simp [trigOperation, invalidOperation_imSet h]

end

/-! ### Every operation, and its end -/

/-- Whatever the operation, with invalid operations enabled IM makes no difference to its result. -/
theorem operationOf_imSet {s : State} (h : invalidEnabled s.asr = true) (i : Instr) :
    operationOf i s.imSet = operationOf i s := by
  cases i with
  | add o => exact congrArg some (addOperation_imSet h ..)
  | sub o => exact congrArg some (addOperation_imSet h ..)
  | div o => exact congrArg some (divOperation_imSet h ..)
  | rem o => exact congrArg some (remOperation_imSet h ..)
  | mul o => exact congrArg some (mulOperation_imSet h ..)
  | move o => exact congrArg some (moveOperation_imSet h ..)
  | cmp o => exact congrArg some (compareOperation_imSet h ..)
  | cmpe o => exact congrArg some (compareOperation_imSet h ..)
  | cmps o => exact congrArg some (compareOperation_imSet h ..)
  | cmpes o => exact congrArg some (compareOperation_imSet h ..)
  | abs o => exact congrArg some (moveOperation_imSet h ..)
  | neg o => exact congrArg some (moveOperation_imSet h ..)
  | sqrt o => exact congrArg some (sqrtOperation_imSet h ..)
  | rtoi o => exact congrArg some (rtoiOperation_imSet h ..)
  | ftoi o => exact congrArg some (ftoiOperation_imSet h ..)
  | itof o => exact congrArg some (itofOperation_imSet h)
  | dtof o => exact congrArg some (dtofOperation_imSet h)
  | ftod o => exact congrArg some (ftodOperation_imSet h ..)
  | sin o => exact congrArg some (trigOperation_imSet h ..)
  | cos o => exact congrArg some (trigOperation_imSet h ..)
  | atan o => exact congrArg some (trigOperation_imSet h ..)
  | pi o => exact congrArg some (piOperation_imSet o s)
  | _ => rfl

/-- The end of an operation leaves IM as it is and does not read it. -/
theorem completeOperation_imSet (o : Operands) (kept : Bool) (r : OpResult) (s : State) :
    completeOperation o kept r s.imSet = (completeOperation o kept r s).imSet := by
  unfold completeOperation
  cases r.trap <;> rfl

end Sys2Proof.Machine
end

section
/-! The obligations of the masks and NTNC: O32 and O33. -/

open Sys2Proof Sys2Proof.Machine

/-- Settles O32: the operation has a result, which signals nothing and so is delivered. -/
theorem nothingSignalledWhenDisabled : Obligations.NothingSignalledWhenDisabled := by
  intro i s hexempt h
  obtain ⟨r, hop⟩ := exists_operationOf s hexempt
  have htrap := operationOf_trap h hop
  exact ⟨r, hop, htrap, exec_delivers hop htrap⟩

/-- Settles O33: with NTNC = 1 invalid operations are enabled whatever IM is, so result and end are the same. -/
theorem ntncActsAsMask : Obligations.NtncActsAsMask := by
  intro i s t hexempt _ hntnc hrun
  have hen : invalidEnabled s.asr = true := by rw [invalidEnabled, hntnc, Bool.or_true]
  obtain ⟨r, hop⟩ := exists_operationOf s hexempt
  obtain rfl : completeOperation i.operands (keepsDr i) r s = t := by simpa [exec_operation hop] using hrun
  have hset : exec i s.imSet = .next (completeOperation i.operands (keepsDr i) r s.imSet) :=
    exec_operation ((operationOf_imSet hen i).trans hop)
  rw [completeOperation_imSet] at hset
  exact hset
end
